-- ==== Sys2Proof/Word.lean ====
section
/-! DEFINITION. The words, bytes and sequences of the block (00_scope.md R7, R8, R9). -/

namespace Sys2Proof

/-- A 32-bit location, command word or SHA-256 word; bit 0 is the least significant (R8). -/
abbrev Word := BitVec 32

/-- A byte, 0..255 (R9). -/
abbrev Byte := BitVec 8

/-- A bit sequence: an ordered list of bits, index 0 the first (R7; false is 0, true is 1). -/
abbrev Bits := List Bool

/-- A byte string: a finite list of bytes (R9). -/
abbrev Bytes := List Byte

/-- A number of one of the 4096 registers (10_state.md R39: 12 bits). -/
abbrev RegNum := BitVec 12

/-- A word-ROM index: exactly 11 bits (20_memory.md R51). -/
abbrev Index := BitVec 11

end Sys2Proof
end

