-- ==== Sys2Proof/Syntax.lean ====
section
/-! DEFINITION. The command set: one constructor per row of the opcode table (30_encoding.md R76), and
commands as the assembler writes them (R79). -/

namespace Sys2Proof

/-- The ten commands (00_scope.md R2, 30_encoding.md R76). There is no eleventh (R82). -/
inductive Instr where
  /-- `CLR`: clear all working state (R105). -/
  | clr
  /-- `PUSHB imm8`: append one entropy byte as 8 bits (R106). -/
  | pushb (imm8 : BitVec 8)
  /-- `PUSHT imm8`: present one character of the persisted text (R125). -/
  | pusht (imm8 : BitVec 8)
  /-- `PUSHK imm8`: append one byte to the token buffer (R190). -/
  | pushk (imm8 : BitVec 8)
  /-- `PACK`: the entropy bits as packed bytes (R107). -/
  | pack
  /-- `SERIAL`: the entropy bits as canonical text (R122). -/
  | serial
  /-- `CSUM`: hash and checksum bits (R155). -/
  | csum
  /-- `DERIVE`: the mnemonic (R181). -/
  | derive
  /-- `LOOKUP imm11`: one ROM word (R176). -/
  | lookup (imm11 : BitVec 11)
  /-- `INSPECT`: inspect the token (R195). -/
  | inspect
deriving DecidableEq, Repr

/-- The three formats of R72, R73, R74. -/
inductive Format where
  /-- Format N: no operand, `w[23:0]` zero (R72). -/
  | n
  /-- Format B: `imm8` in `w[7:0]`, `w[23:8]` zero (R73). -/
  | b
  /-- Format X: `imm11` in `w[10:0]`, `w[23:11]` zero (R74). -/
  | x
deriving DecidableEq, Repr

/-- The mnemonic of a command (R76). -/
def Instr.mnemonic : Instr → String
  | .clr => "CLR"
  | .pushb _ => "PUSHB"
  | .pusht _ => "PUSHT"
  | .pushk _ => "PUSHK"
  | .pack => "PACK"
  | .serial => "SERIAL"
  | .csum => "CSUM"
  | .derive => "DERIVE"
  | .lookup _ => "LOOKUP"
  | .inspect => "INSPECT"

/-- The format of a command (R72, R73, R74). -/
def Instr.format : Instr → Format
  | .clr => .n
  | .pushb _ => .b
  | .pusht _ => .b
  | .pushk _ => .b
  | .pack => .n
  | .serial => .n
  | .csum => .n
  | .derive => .n
  | .lookup _ => .x
  | .inspect => .n

/-- The immediate as a number, if the format has one (R75: unsigned, used as is). -/
def Instr.immediate : Instr → Option Nat
  | .clr => none
  | .pushb imm8 => some imm8.toNat
  | .pusht imm8 => some imm8.toNat
  | .pushk imm8 => some imm8.toNat
  | .pack => none
  | .serial => none
  | .csum => none
  | .derive => none
  | .lookup imm11 => some imm11.toNat
  | .inspect => none

/-- A command as the assembler notation writes it (R79): a mnemonic followed by its immediate, if any. Unlike
`Instr` it can be ill-formed (an unknown mnemonic, a missing or superfluous immediate, one out of range). -/
structure Source where
  mnemonic : String
  immediate : Option Nat
deriving DecidableEq, Repr

/-- The assembler notation of a command (R79). -/
def Instr.source (i : Instr) : Source := { mnemonic := i.mnemonic, immediate := i.immediate }

end Sys2Proof
end

