-- ==== Sys2Proof/Config.lean ====
section
/-! DEFINITION. The block's parameters (00_scope.md R6) and the free values: the bytes of the word list, and what a
register reads of a number that does not fit it. -/

namespace Sys2Proof

/-- The parameters of R6 that may differ between blocks. Fixed before reset and never written (R14, R33).
The constraints of R6 are `Params.valid` in WellFormed.lean. -/
structure Params where
  /-- `ENT_MAX`: capacity of the entropy buffer in bits. -/
  entMax : Nat
  /-- `WORD_MAX`: the longest ROM word, in bytes (a premise on the ROM, not checked by the block). -/
  wordMax : Nat
  /-- `TOK_MAX`: capacity of the token buffer in bytes. -/
  tokMax : Nat
  /-- `OBUF_SIZE`: capacity of the output buffer in bytes. -/
  obufSize : Nat
  /-- `WORDLIST`: the ROM image, a list of byte strings (43_wordlist_derive.md R170). -/
  wordlist : List Bytes
deriving DecidableEq, Repr

/-- `CS_MAX` = ENT_MAX / 32 (R6). -/
def Params.csMax (p : Params) : Nat := p.entMax / 32

/-- `NIDX_MAX` = 3 * ENT_MAX / 32 (R6). -/
def Params.nidxMax (p : Params) : Nat := 3 * p.entMax / 32

namespace Config

/-- `WL_SIZE`, the required number of ROM words (R6, fixed). -/
def wlSize : Nat := 2048

/-- `IDX_W`, the index width in bits (R6, fixed). -/
def idxW : Nat := 11

/-- `GROUP_W`, bits per text group (R6, fixed). -/
def groupW : Nat := 11

/-- `LINE_GROUPS`, groups per text line (R6, fixed). -/
def lineGroups : Nat := 6

/-- FREE VALUE: the bytes of ROM word number i of the reset instance. The spec leaves the contents of
`WORDLIST` open (R6, R170, 92 D10), so nothing constrains them (log 5). -/
opaque word : Nat → Bytes

/-- FREE VALUE: what a 32-bit register reads of a number v that 32 bits do not hold. The spec's `zext_32(v)` requires
v < 2^32 (R8), and R6 gives `TOK_MAX` no upper bound, so `TOKLEN` of a valid block may not fit (log 16). -/
opaque unfitRegWord : Nat → Word

/-- DESIGN CHOICE (log 4): the reset instance holds exactly the required number of words. -/
def wordCount : Nat := 2048

/-- The reset instance's ROM image: `wordCount` words of open content. -/
def wordlist : List Bytes := (List.range wordCount).map word

/-- The instance the spec describes: R6's defaults. -/
def params : Params :=
  { entMax := 256, wordMax := 8, tokMax := 32, obufSize := 512, wordlist := wordlist }

end Config

end Sys2Proof
end

