-- ==== Sys2Proof/WellFormed.lean ====
section
/-! DEFINITION. The checks: of a command in assembler notation (30_encoding.md R72 to R75, R79) and of the
parameters (00_scope.md R6). -/

namespace Sys2Proof

/-- The format a mnemonic has (R76), none for a name that is no command (R82: there is no eleventh command). -/
def formatOfMnemonic (m : String) : Option Format :=
  if m ∈ ["CLR", "PACK", "SERIAL", "CSUM", "DERIVE", "INSPECT"] then some .n
  else if m ∈ ["PUSHB", "PUSHT", "PUSHK"] then some .b
  else if m = "LOOKUP" then some .x
  else none

/-- Whether a format admits an immediate: none in N (R72), 0..255 in B, 0..2047 in X (R75). -/
def Format.admits : Format → Option Nat → Bool
  | .n, none => true
  | .n, some _ => false
  | .b, none => false
  | .b, some v => v < 256
  | .x, none => false
  | .x, some v => v < 2048

/-- A written command is well-formed when its mnemonic is a command's and its format admits its immediate. -/
def Source.wellFormed (c : Source) : Bool :=
  match formatOfMnemonic c.mnemonic with
  | none => false
  | some f => f.admits c.immediate

/-- A command is well-formed when its notation is. Every value of `Instr` is: the types of the immediates are
exactly the ranges of R75 (Laws/Encoding.lean, `Instr.wellFormed_true`). -/
def Instr.wellFormed (i : Instr) : Bool := i.source.wellFormed

/-- The lower bound R6 puts on `OBUF_SIZE`: the longest output of any command. -/
def Params.obufNeed (p : Params) : Nat :=
  max (p.entMax + (p.entMax + 10) / 11)
    (max (p.nidxMax * p.wordMax + p.nidxMax - 1) (max (p.entMax / 8) (max 11 p.wordMax)))

/-- The constraints of R6 on the numeric parameters. Values outside them are no block at all (93 U11; log 8). -/
def Params.valid (p : Params) : Bool :=
  p.entMax % 32 == 0 && decide (32 ≤ p.entMax) && decide (p.entMax ≤ 1024) &&
  decide (1 ≤ p.wordMax) && decide (11 ≤ p.tokMax) && decide (p.wordMax ≤ p.tokMax) &&
  decide (p.obufNeed ≤ p.obufSize) && decide (p.obufSize ≤ 3840)

/-- The one property of the ROM image the block checks (43_wordlist_derive.md R171): its length. -/
def Params.goodRom (p : Params) : Bool := p.wordlist.length == Config.wlSize

/-- Premise R172 (a), upper half: every ROM word fits `WORD_MAX`. Assumed of a list, not checked by the block. -/
def Params.wordsFit (p : Params) : Bool := p.wordlist.all fun w => decide (w.length ≤ p.wordMax)

end Sys2Proof
end

