-- ==== Sys2Proof/Decode.lean ====
section
/-! DEFINITION. The decoder of a 32-bit command word, total and rejecting by name (30_encoding.md R70 to R78),
the encoder, the assembler (R79) and the opcode table in the manual's own mask-and-match form (R76). -/

namespace Sys2Proof

/-- Why a word is illegal (R77). The block reports both alike, as `ERR_ILLEGAL`. -/
inductive DecodeError where
  /-- `w[31:24]` is none of the ten opcodes. -/
  | unknownOpcode (opcode : BitVec 8)
  /-- The opcode is assigned but a bit its format reserves is 1. -/
  | reservedBitSet (f : Format)
deriving DecidableEq, Repr

/-- `w[31:24]`, the opcode (R71). -/
def opcodeField (w : Word) : BitVec 8 := w.extractLsb' 24 8

/-- `w[7:0]`, the byte immediate of format B (R73). -/
def imm8Field (w : Word) : BitVec 8 := w.extractLsb' 0 8

/-- `w[10:0]`, the index immediate of format X (R74). -/
def imm11Field (w : Word) : BitVec 11 := w.extractLsb' 0 11

/-- The bits of a word that a format reserves are all 0: `w[23:0]` (N), `w[23:8]` (B), `w[23:11]` (X). -/
def reservedZero : Format → Word → Bool
  | .n, w => w.extractLsb' 0 24 == 0
  | .b, w => w.extractLsb' 8 16 == 0
  | .x, w => w.extractLsb' 11 13 == 0

/-- Accept a command of format f unless a reserved bit of the word is set (R77). -/
def acceptFormat (f : Format) (w : Word) (i : Instr) : Except DecodeError Instr :=
  if reservedZero f w then .ok i else .error (.reservedBitSet f)

/-- The decoder: total on all 2^32 words (R76, R77, R78). -/
def decode (w : Word) : Except DecodeError Instr :=
  match (opcodeField w).toNat with
  | 0x01 => acceptFormat .n w .clr
  | 0x10 => acceptFormat .b w (.pushb (imm8Field w))
  | 0x11 => acceptFormat .b w (.pusht (imm8Field w))
  | 0x12 => acceptFormat .b w (.pushk (imm8Field w))
  | 0x20 => acceptFormat .n w .pack
  | 0x21 => acceptFormat .n w .serial
  | 0x30 => acceptFormat .n w .csum
  | 0x31 => acceptFormat .n w .derive
  | 0x40 => acceptFormat .x w (.lookup (imm11Field w))
  | 0x41 => acceptFormat .n w .inspect
  | _ => .error (.unknownOpcode (opcodeField w))

/-- The opcode of a command (R76). -/
def Instr.opcode : Instr → BitVec 8
  | .clr => 0x01
  | .pushb _ => 0x10
  | .pusht _ => 0x11
  | .pushk _ => 0x12
  | .pack => 0x20
  | .serial => 0x21
  | .csum => 0x30
  | .derive => 0x31
  | .lookup _ => 0x40
  | .inspect => 0x41

/-- A format-N word: opcode, 24 zero bits (R72). -/
def formatN (opcode : BitVec 8) : Word := opcode ++ 0#24

/-- A format-B word: opcode, 16 zero bits, `imm8` (R73). -/
def formatB (opcode : BitVec 8) (imm8 : BitVec 8) : Word := opcode ++ 0#16 ++ imm8

/-- A format-X word: opcode, 13 zero bits, `imm11` (R74). -/
def formatX (opcode : BitVec 8) (imm11 : BitVec 11) : Word := opcode ++ 0#13 ++ imm11

/-- The encoder: the word of a command, `opcode << 24 | imm` (R72, R73, R74, R79). -/
def encode : Instr → Word
  | .clr => formatN 0x01
  | .pushb imm8 => formatB 0x10 imm8
  | .pusht imm8 => formatB 0x11 imm8
  | .pushk imm8 => formatB 0x12 imm8
  | .pack => formatN 0x20
  | .serial => formatN 0x21
  | .csum => formatN 0x30
  | .derive => formatN 0x31
  | .lookup imm11 => formatX 0x40 imm11
  | .inspect => formatN 0x41

/-- One row of R76's table: the word is this command exactly when `(w & mask) = matchBits`. -/
structure TableRow where
  mnemonic : String
  matchBits : Word
  mask : Word
deriving DecidableEq, Repr

/-- The table of R76, row by row. -/
def opcodeTable : List TableRow :=
  [ ⟨"CLR", 0x01000000, 0xFFFFFFFF⟩,
    ⟨"PUSHB", 0x10000000, 0xFFFFFF00⟩,
    ⟨"PUSHT", 0x11000000, 0xFFFFFF00⟩,
    ⟨"PUSHK", 0x12000000, 0xFFFFFF00⟩,
    ⟨"PACK", 0x20000000, 0xFFFFFFFF⟩,
    ⟨"SERIAL", 0x21000000, 0xFFFFFFFF⟩,
    ⟨"CSUM", 0x30000000, 0xFFFFFFFF⟩,
    ⟨"DERIVE", 0x31000000, 0xFFFFFFFF⟩,
    ⟨"LOOKUP", 0x40000000, 0xFFFFF800⟩,
    ⟨"INSPECT", 0x41000000, 0xFFFFFFFF⟩ ]

/-- The row's test of a word (R76). -/
def TableRow.accepts (r : TableRow) (w : Word) : Bool := w &&& r.mask == r.matchBits

/-- The assembler (R79): the command a well-formed notation stands for. -/
def assemble (c : Source) : Option Instr :=
  if c.wellFormed then
    match c.mnemonic, c.immediate with
    | "CLR", none => some .clr
    | "PUSHB", some v => some (.pushb (BitVec.ofNat 8 v))
    | "PUSHT", some v => some (.pusht (BitVec.ofNat 8 v))
    | "PUSHK", some v => some (.pushk (BitVec.ofNat 8 v))
    | "PACK", none => some .pack
    | "SERIAL", none => some .serial
    | "CSUM", none => some .csum
    | "DERIVE", none => some .derive
    | "LOOKUP", some v => some (.lookup (BitVec.ofNat 11 v))
    | "INSPECT", none => some .inspect
    | _, _ => none
  else none

/-- The decoder on a table row's word, given as the row's low `nbits` bits (every higher bit 0). A command is one
32-bit number (R71, R57), so there is no byte order to lay out. -/
def decodeTableWord (nbits w : Nat) : Option Instr :=
  match decode (BitVec.ofNat 32 (w % 2 ^ nbits)) with
  | .ok i => some i
  | .error _ => none

end Sys2Proof
end

