-- ==== Sys2Proof/Machine/State.lean ====
section
/-! DEFINITION. The state of the block (10_state.md R20 to R32), the host agent's side (00_scope.md R13,
10_state.md R35), and reset (10_state.md R45). -/

namespace Sys2Proof.Machine

open Sys2Proof

/-- The seven error codes of 60_exceptions.md R210 (codes 1 to 7; 8 to 15 are never produced). -/
inductive ErrCode where
  /-- 1 `ERR_CONFIG`: the ROM does not hold exactly 2048 words. -/
  | config
  /-- 2 `ERR_ILLEGAL`: the word is no legal encoding. -/
  | illegal
  /-- 3 `ERR_OVF`: a buffer could not hold all the host presented. -/
  | ovf
  /-- 4 `ERR_EMPTY`: nothing recognisable was loaded. -/
  | empty
  /-- 5 `ERR_LEN`: the entropy length is positive and no multiple of 32. -/
  | len
  /-- 6 `ERR_RANGE`: a binary-literal token longer than 11 characters. -/
  | range
  /-- 7 `ERR_LOOKUP`: the token is neither a binary literal nor a word of the list. -/
  | lookup
deriving DecidableEq, Repr

/-- What `LASTERR` can hold (R30, R210): code 0 or one of the codes 1 to 7. -/
inductive ResultCode where
  /-- 0 `OK`. -/
  | ok
  /-- One of the error codes. -/
  | err (c : ErrCode)
deriving DecidableEq, Repr

/-- The seven sticky bits `ERRS[1..7]` (R31), each under the name of its code. -/
structure Errs where
  config : Bool
  illegal : Bool
  ovf : Bool
  empty : Bool
  len : Bool
  range : Bool
  lookup : Bool
deriving DecidableEq, Repr

/-- All sticky bits 0. -/
def Errs.clear : Errs :=
  { config := false, illegal := false, ovf := false, empty := false, len := false, range := false, lookup := false }

/-- `INSR.KIND` (R29): 0 no result, 1 binary path, 2 word path; 3 never occurs. -/
inductive InspectKind where
  /-- 0: no result. -/
  | noResult
  /-- 1: the last `INSPECT` took the binary path. -/
  | binary
  /-- 2: the last `INSPECT` took the word path. -/
  | word
deriving DecidableEq, Repr

/-- `INSR` (R29). -/
structure Insr where
  kind : InspectKind
  index : Index
deriving DecidableEq, Repr

/-- `INSR` with no result: KIND 0, INDEX 0. -/
def Insr.clear : Insr := { kind := .noResult, index := 0 }

/-- Eight 32-bit words: the form of `DIGEST[0..7]` (R24) and of SHA-256's chaining value and working variables. -/
structure Hash8 where
  h0 : Word
  h1 : Word
  h2 : Word
  h3 : Word
  h4 : Word
  h5 : Word
  h6 : Word
  h7 : Word
deriving DecidableEq, Repr

/-- Eight zero words. -/
def Hash8.zero : Hash8 := { h0 := 0, h1 := 0, h2 := 0, h3 := 0, h4 := 0, h5 := 0, h6 := 0, h7 := 0 }

/-- One access of the host to a register number (10_state.md R39, R40). -/
inductive HostAccess where
  /-- Read register number n (`RegRead(n)`). -/
  | read (n : RegNum)
  /-- Write the word w to register number n (`CmdWrite(w)` when n is 0x010, ignored otherwise). -/
  | write (n : RegNum) (w : Word)
deriving DecidableEq, Repr

/-- The whole state. The lengths `ENTLEN`, `TOKLEN`, `NIDX`, `OLEN` are the lengths of the lists (R20, R53). -/
structure State where
  /-- The parameters of R6, the ROM image among them: constant, no step writes them (log 1). -/
  params : Params
  /-- `ENT` (R20): exactly ENTLEN bits, the first bit first. -/
  ent : Bits
  /-- `ENTOVF` (R21). -/
  entOvf : Bool
  /-- `TOK` (R22): exactly TOKLEN bytes. -/
  tok : Bytes
  /-- `TOKOVF` (R23). -/
  tokOvf : Bool
  /-- `DIGEST[0..7]` (R24). -/
  digest : Hash8
  /-- `CS` (R25), an unsigned integer below 2^CSLEN. -/
  cs : Nat
  /-- `CSLEN` (R25). -/
  csLen : Nat
  /-- `CSVALID` (R26). -/
  csValid : Bool
  /-- `IDX` (R27): exactly NIDX indices. -/
  idx : List Index
  /-- `OBUF` (R28): exactly OLEN bytes. -/
  obuf : Bytes
  /-- `INSR` (R29). -/
  insr : Insr
  /-- `LASTERR` (R30). -/
  lastErr : ResultCode
  /-- `ERRS[1..7]` (R31). -/
  errs : Errs
  /-- `CFGERR` (R32): constant after reset. -/
  cfgErr : Bool
  /-- The HOST's state, not the block's (R35): its accesses still to come, the next one first (log 2). -/
  host : List HostAccess
  /-- The HOST's state, not the block's: the values it has read, the newest first (log 2). -/
  received : List Word
deriving DecidableEq, Repr

/-- The reasons a step could stop with a fault: none. An error of this block is a result code in `LASTERR` and a
sticky bit in `ERRS`, after which it goes on (60_exceptions.md R211, R217, R252; log 12). Nothing raises a fault,
so nothing about one is unsafe. -/
inductive Fault where
deriving DecidableEq, Repr

/-- The reasons a step could be refused. -/
inductive Refusal where
  /-- An instruction without a meaning. No arm of `exec` raises it: every command is modelled. It would be safe
  (nothing could be concluded about a run that meets it). -/
  | notModelled (mnemonic : String)
deriving DecidableEq, Repr

/-- The reset state of a block with parameters p whose ROM holds `count` words (R45, R32, R30, R31). -/
def State.resetOf (p : Params) (count : Nat) : State :=
  { params := p
    ent := []
    entOvf := false
    tok := []
    tokOvf := false
    digest := Hash8.zero
    cs := 0
    csLen := 0
    csValid := false
    idx := []
    obuf := []
    insr := Insr.clear
    lastErr := if count != Config.wlSize then .err .config else .ok
    errs := { Errs.clear with config := count != Config.wlSize }
    cfgErr := count != Config.wlSize
    host := []
    received := [] }

/-- The reset state of the block with parameters p, whatever its ROM image (R45). -/
def State.resetWith (p : Params) : State := State.resetOf p p.wordlist.length

/-- The machine right after reset: R6's default parameters and a ROM of 2048 words of open content (log 4).
It is `State.resetWith Config.params` (Laws/State.lean, `State.reset_eq_resetWith`); the count is written as the
number `Config.wordCount` so that the 2048 words need not be walked to evaluate it. -/
def State.reset : State := State.resetOf Config.params Config.wordCount

end Sys2Proof.Machine
end

