-- ==== Sys2Proof/Machine/Flags.lean ====
section
/-! DEFINITION. The flags and result codes: their numbers, `ERRS`, and the words `STATUS` and `INSR`
(10_state.md R29 to R32, R36, R40, R41; 60_exceptions.md R210). -/

namespace Sys2Proof.Machine

open Sys2Proof

/-- The number of an error code (R210). -/
def ErrCode.num : ErrCode → Nat
  | .config => 1
  | .illegal => 2
  | .ovf => 3
  | .empty => 4
  | .len => 5
  | .range => 6
  | .lookup => 7

/-- `LASTERR` as its 4 bits (R30). -/
def ResultCode.bits : ResultCode → BitVec 4
  | .ok => 0
  | .err c => BitVec.ofNat 4 c.num

/-- `ERRS[c]` (R31). -/
def Errs.get (e : Errs) : ErrCode → Bool
  | .config => e.config
  | .illegal => e.illegal
  | .ovf => e.ovf
  | .empty => e.empty
  | .len => e.len
  | .range => e.range
  | .lookup => e.lookup

/-- `ERRS[c] <- 1` (R211). -/
def Errs.set (e : Errs) : ErrCode → Errs
  | .config => { e with config := true }
  | .illegal => { e with illegal := true }
  | .ovf => { e with ovf := true }
  | .empty => { e with empty := true }
  | .len => { e with len := true }
  | .range => { e with range := true }
  | .lookup => { e with lookup := true }

/-- `ERRS` as the 7 bits 15:9 of `STATUS`: bit 8+c of `STATUS` is `ERRS[c]` (R41). -/
def Errs.bits (e : Errs) : BitVec 7 :=
  BitVec.ofBool e.lookup ++ BitVec.ofBool e.range ++ BitVec.ofBool e.len ++ BitVec.ofBool e.empty ++
    BitVec.ofBool e.ovf ++ BitVec.ofBool e.illegal ++ BitVec.ofBool e.config

/-- `STATUS` (R41), field by field from bit 31 down: reserved, ERRS, reserved, CSVALID, TOKOVF, ENTOVF, CFGERR,
LASTERR. -/
def statusWord (s : State) : Word :=
  0#16 ++ s.errs.bits ++ 0#1 ++ BitVec.ofBool s.csValid ++ BitVec.ofBool s.tokOvf ++ BitVec.ofBool s.entOvf ++
    BitVec.ofBool s.cfgErr ++ s.lastErr.bits

/-- `INSR.KIND` as its 2 bits (R29). -/
def InspectKind.bits : InspectKind → BitVec 2
  | .noResult => 0
  | .binary => 1
  | .word => 2

/-- The word read at register number 0x007 (R40): INDEX in bits 10:0, KIND in bits 17:16, all others 0. -/
def insrWord (r : Insr) : Word := 0#14 ++ r.kind.bits ++ 0#5 ++ r.index

end Sys2Proof.Machine
end

