-- ==== Sys2Proof/Machine/Codec.lean ====
section
/-! DEFINITION. The pure functions of the bit codec (40_bit_codec.md R100 to R104). -/

namespace Sys2Proof.Machine

open Sys2Proof

/-- `'0'` (00_scope.md R9). -/
def chr0 : Byte := 0x30

/-- `'1'` (R9). -/
def chr1 : Byte := 0x31

/-- `SP` (R9). -/
def chrSP : Byte := 0x20

/-- `LF` (R9). -/
def chrLF : Byte := 0x0A

/-- The bits of one byte from weight 128 down to weight 1 (R100, 20_memory.md R54). -/
def byteBits (b : Byte) : Bits := (List.range 8).map fun i => b.getLsbD (7 - i)

/-- `bytesToBits` (R100). -/
def bytesToBits (B : Bytes) : Bits := B.flatMap byteBits

/-- `bitsToInt` (R102): the big-endian value, the first of n bits having weight 2^(n-1). -/
def bitsToInt : Bits → Nat
  | [] => 0
  | b :: g => b.toNat * 2 ^ g.length + bitsToInt g

/-- Byte j of the packed form of s: bits 8j to 8j+7, positions beyond the end of s read as 0 (R101). -/
def packedByte (s : Bits) (j : Nat) : Byte :=
  BitVec.ofNat 8 (bitsToInt ((List.range 8).map fun i => s.getD (8 * j + i) false))

/-- `bitsToBytes` (R101): ceil(n/8) bytes, the last one padded with zero bits at its low end. -/
def bitsToBytes (s : Bits) : Bytes := (List.range ((s.length + 7) / 8)).map (packedByte s)

/-- `intToBits11` (R103): `g[i] = v[10-i]`. -/
def intToBits11 (v : Index) : Bits := (List.range Config.idxW).map fun i => v.getLsbD (10 - i)

/-- The ASCII digit of a bit (R103, 41_persist_load.md R120). -/
def digitChar (b : Bool) : Byte := if b then chr1 else chr0

/-- `bin11` (R103): the 11 bits as 11 ASCII digits. -/
def bin11 (v : Index) : Bytes := (intToBits11 v).map digitChar

/-- The bit a text character stands for, none for a character that is no binary digit (41_persist_load.md R123). -/
def charBit (c : Byte) : Option Bool :=
  if c = chr0 then some false else if c = chr1 then some true else none

/-- `isBinaryLiteral` (R104). -/
def isBinaryLiteral (t : Bytes) : Bool := !t.isEmpty && t.all fun c => c == chr0 || c == chr1

end Sys2Proof.Machine
end

