-- ==== Sys2Proof/Machine/Sha256.lean ====
section
/-! DEFINITION. SHA-256 (42_sha256_checksum.md R140 to R148, R152) and the checksum bits (R153). -/

namespace Sys2Proof.Machine

open Sys2Proof

/-- `ROTR(n, x)` (R140): rotate right by n bits. -/
def rotr (n : Nat) (x : Word) : Word := x.rotateRight n

/-- `SHR(n, x)` (R140). -/
def shr (n : Nat) (x : Word) : Word := x >>> n

/-- `a ^ b ^ c` (R140), the shape of five of the six functions of R141. -/
def xor3 (a b c : Word) : Word := a ^^^ b ^^^ c

/-! The functions of R141, by use: `BSIG1` and `Ch` in T1, `BSIG0` and `Maj` in T2, `SSIG0` and `SSIG1` in the
schedule. -/

/-- `BSIG1`, "capital sigma 1" (R141). -/
def bsig1 (x : Word) : Word := xor3 (rotr 6 x) (rotr 11 x) (rotr 25 x)

/-- `Ch` (R141). -/
def ch (x y z : Word) : Word := (x &&& y) ^^^ (~~~x &&& z)

/-- `BSIG0`, "capital sigma 0" (R141). -/
def bsig0 (x : Word) : Word := xor3 (rotr 2 x) (rotr 13 x) (rotr 22 x)

/-- `Maj` (R141). -/
def maj (x y z : Word) : Word := xor3 (x &&& y) (x &&& z) (y &&& z)

/-- `SSIG0`, "small sigma 0" (R141). -/
def ssig0 (x : Word) : Word := xor3 (rotr 7 x) (rotr 18 x) (shr 3 x)

/-- `SSIG1`, "small sigma 1" (R141). -/
def ssig1 (x : Word) : Word := xor3 (rotr 17 x) (rotr 19 x) (shr 10 x)

/-- One row of R142's table. -/
def fourWords (a b c d : Word) : List Word := [a, b, c, d]

/-- The round constants `K[0..63]`, row by row as R142 prints them. -/
def roundConstants : List Word :=
    fourWords 0x428a2f98 0x71374491 0xb5c0fbcf 0xe9b5dba5 ++
    fourWords 0x3956c25b 0x59f111f1 0x923f82a4 0xab1c5ed5 ++
    fourWords 0xd807aa98 0x12835b01 0x243185be 0x550c7dc3 ++
    fourWords 0x72be5d74 0x80deb1fe 0x9bdc06a7 0xc19bf174 ++
    fourWords 0xe49b69c1 0xefbe4786 0x0fc19dc6 0x240ca1cc ++
    fourWords 0x2de92c6f 0x4a7484aa 0x5cb0a9dc 0x76f988da ++
    fourWords 0x983e5152 0xa831c66d 0xb00327c8 0xbf597fc7 ++
    fourWords 0xc6e00bf3 0xd5a79147 0x06ca6351 0x14292967 ++
    fourWords 0x27b70a85 0x2e1b2138 0x4d2c6dfc 0x53380d13 ++
    fourWords 0x650a7354 0x766a0abb 0x81c2c92e 0x92722c85 ++
    fourWords 0xa2bfe8a1 0xa81a664b 0xc24b8b70 0xc76c51a3 ++
    fourWords 0xd192e819 0xd6990624 0xf40e3585 0x106aa070 ++
    fourWords 0x19a4c116 0x1e376c08 0x2748774c 0x34b0bcb5 ++
    fourWords 0x391c0cb3 0x4ed8aa4a 0x5b9cca4f 0x682e6ff3 ++
    fourWords 0x748f82ee 0x78a5636f 0x84c87814 0x8cc70208 ++
    fourWords 0x90befffa 0xa4506ceb 0xbef9a3f7 0xc67178f2

/-- The initial hash value `H0[0..7]` (R145). -/
def initialHash : Hash8 :=
  { h0 := 0x6a09e667, h1 := 0xbb67ae85, h2 := 0x3c6ef372, h3 := 0xa54ff53a
    h4 := 0x510e527f, h5 := 0x9b05688c, h6 := 0x1f83d9ab, h7 := 0x5be0cd19 }

/-- z of R143: the least number with `(L + 1 + z) mod 64 = 56`. -/
def padZeros (L : Nat) : Nat := (119 - L % 64) % 64

/-- A number as n bytes, most significant first. -/
def bigEndianBytes (n v : Nat) : Bytes := (List.range n).map fun i => BitVec.ofNat 8 (v / 256 ^ (n - 1 - i))

/-- `pad` (R143). DESIGN CHOICE (log 11): a bit length of 2^64 or more, for which R143 gives no 64-bit number, leaves its low
64 bits. -/
def shaPad (M : Bytes) : Bytes :=
  M ++ [0x80] ++ List.replicate (padZeros M.length) 0 ++ bigEndianBytes 8 (8 * M.length)

/-- The 64-byte blocks of a padded message, in order (R144). -/
def shaBlocks (P : Bytes) : List Bytes := (List.range (P.length / 64)).map fun b => (P.drop (64 * b)).take 64

/-- Message word t of a block: its bytes 4t to 4t + 3 side by side, the first one most significant (R144). -/
def messageWord (block : Bytes) (t : Nat) : Word :=
  let byte (i : Nat) : Byte := block.getD (4 * t + i) 0
  byte 0 ++ byte 1 ++ byte 2 ++ byte 3

/-- The sixteen message words of a block (R144). -/
def messageWords (block : Bytes) : List Word := (List.range 16).map (messageWord block)

/-- The next schedule word, from the words so far with the newest first (R146): `W[t-2]`, `W[t-7]`, `W[t-15]` and
`W[t-16]` stand at 1, 6, 14 and 15. -/
def nextScheduleWord (ws : List Word) : Word :=
  ssig1 (ws.getD 1 0) + ws.getD 6 0 + ssig0 (ws.getD 14 0) + ws.getD 15 0

/-- n more schedule words, the newest first. -/
def extendSchedule : Nat → List Word → List Word
  | 0, ws => ws
  | n + 1, ws => extendSchedule n (nextScheduleWord ws :: ws)

/-- The message schedule `W[0..63]` (R146). -/
def schedule (mw : List Word) : List Word := (extendSchedule 48 mw.reverse).reverse

/-- `T1` of a round with round constant k and schedule word w (R147); the working variables a..h are v's h0..h7. -/
def roundT1 (v : Hash8) (k w : Word) : Word := v.h7 + bsig1 v.h4 + ch v.h4 v.h5 v.h6 + k + w

/-- `T2` of a round (R147). -/
def roundT2 (v : Hash8) : Word := bsig0 v.h0 + maj v.h0 v.h1 v.h2

/-- The shift of R147's assignments: every variable takes the one before it, `a` and `e` take the given values. -/
def Hash8.shift (v : Hash8) (newA newE : Word) : Hash8 := ⟨newA, v.h0, v.h1, v.h2, newE, v.h4, v.h5, v.h6⟩

/-- One round of R147. -/
def shaRound (v : Hash8) (k w : Word) : Hash8 := v.shift (roundT1 v k w + roundT2 v) (v.h3 + roundT1 v k w)

/-- The 64 rounds over one block's schedule (R147). -/
def compress (H : Hash8) (W : List Word) : Hash8 :=
  (roundConstants.zip W).foldl (fun v kw => shaRound v kw.1 kw.2) H

/-- Two hash values combined word by word. -/
def Hash8.zipWith (f : Word → Word → Word) (H v : Hash8) : Hash8 :=
  ⟨f H.h0 v.h0, f H.h1 v.h1, f H.h2 v.h2, f H.h3 v.h3, f H.h4 v.h4, f H.h5 v.h5, f H.h6 v.h6, f H.h7 v.h7⟩

/-- Chaining (R148): word by word addition modulo 2^32. -/
def chain (H v : Hash8) : Hash8 := H.zipWith (· + ·) v

/-- One block: parse, schedule, compress, chain (R152). -/
def shaBlockStep (H : Hash8) (block : Bytes) : Hash8 := chain H (compress H (schedule (messageWords block)))

/-- `SHA256(M)` as eight words (R152). -/
def sha256 (M : Bytes) : Hash8 := (shaBlocks (shaPad M)).foldl shaBlockStep initialHash

/-- The eight words in order (R24). -/
def Hash8.words (H : Hash8) : List Word := [H.h0, H.h1, H.h2, H.h3, H.h4, H.h5, H.h6, H.h7]

/-- The four bytes of a word, most significant first (R152, 20_memory.md R56). -/
def wordBytes (w : Word) : Bytes := (List.range 4).map fun i => w.extractLsb' (24 - 8 * i) 8

/-- The 32-byte form of a hash value (R152, R24). -/
def Hash8.bytes (H : Hash8) : Bytes := H.words.flatMap wordBytes

/-- `hashBytes(M)` (R152). -/
def hashBytes (M : Bytes) : Bytes := (sha256 M).bytes

/-- `checksumBits(s)` (R153): the first len(s)/32 bits of the hash of the entropy bytes. -/
def checksumBits (s : Bits) : Bits := (bytesToBits (hashBytes (bitsToBytes s))).take (s.length / 32)

end Sys2Proof.Machine
end

