-- ==== Sys2Proof/Machine/Ops.lean ====
section
/-! DEFINITION. The shared operations over the state: how a command ends (`ok`, `fail`: the block's only form of
exception, 60_exceptions.md R211), the appends and replacements of the buffers (20_memory.md R52, R53), and the checks
the consumers share. -/

namespace Sys2Proof.Machine

open Sys2Proof

/-- The outcome type of every step. -/
abbrev Outcome := Host.Outcome State Fault Refusal

/-- `ok` (R211): `LASTERR <- 0`, `ERRS` unchanged. -/
def State.ok (s : State) : State := { s with lastErr := .ok }

/-- `fail(c)` (R211): `LASTERR <- c`, `ERRS[c] <- 1`, nothing else. An error traps nowhere, saves nothing and changes
no mode (R217); there is no return from it to model (R218). -/
def State.fail (c : ErrCode) (s : State) : State := { s with lastErr := .err c, errs := s.errs.set c }

/-- `ENT <- ENT ++ bits` (R52): `CSVALID` drops when at least one bit is appended (10_state.md R26). -/
def State.appendEnt (bits : Bits) (s : State) : State :=
  { s with ent := s.ent ++ bits, csValid := s.csValid && bits.isEmpty }

/-- The room test of R52: no overflow pending and all n bits fit. -/
def State.entRoom (n : Nat) (s : State) : Bool := !s.entOvf && decide (s.ent.length + n ≤ s.params.entMax)

/-- `ENTOVF <- 1` (10_state.md R21). -/
def State.setEntOvf (s : State) : State := { s with entOvf := true }

/-- Present bits to the entropy buffer: all of them or none (R52, 40_bit_codec.md R106, 41_persist_load.md R125). -/
def State.presentBits (bits : Bits) (s : State) : State :=
  if s.entRoom bits.length then (s.appendEnt bits).ok else s.setEntOvf.fail .ovf

/-- `TOK <- TOK ++ [b]` (44_inspect.md R190). -/
def State.appendTok (b : Byte) (s : State) : State := { s with tok := s.tok ++ [b] }

/-- `TOKOVF <- 1` (10_state.md R23). -/
def State.setTokOvf (s : State) : State := { s with tokOvf := true }

/-- `MemWrite(OBUF, bs)` (R53): the whole buffer is replaced (log 7). -/
def State.writeObuf (bs : Bytes) (s : State) : State := { s with obuf := bs }

/-- The whole index list is replaced (R53). -/
def State.writeIdx (I : List Index) (s : State) : State := { s with idx := I }

/-- The hash part of `CSUM` and `DERIVE` (42_sha256_checksum.md R155): `DIGEST`, `CSLEN`, `CS` from the bits of `ENT`,
`CSVALID <- 1`. -/
def State.writeHash (s : State) : State :=
  { s with
    digest := sha256 (bitsToBytes s.ent)
    csLen := s.ent.length / 32
    cs := bitsToInt (checksumBits s.ent)
    csValid := true }

/-- The check of `PACK` and `SERIAL` (10_state.md R21): refuse while `ENTOVF` = 1. -/
def State.unlessOverflowed (s : State) (body : State → State) : State :=
  if s.entOvf then s.fail .ovf else body s

/-- The checks of `CSUM` and `DERIVE` in their order (42_sha256_checksum.md R155, 60_exceptions.md R215). -/
def State.ifDerivable (s : State) (body : State → State) : State :=
  if s.entOvf then s.fail .ovf
  else if s.ent.length = 0 then s.fail .empty
  else if s.ent.length % 32 ≠ 0 then s.fail .len
  else body s

/-- The token is consumed (44_inspect.md R195): `TOK` empty, `TOKOVF` 0. -/
def State.consumeTok (s : State) : State := { s with tok := [], tokOvf := false }

/-- A failing inspection (R195): `INSR <- 0`, `OBUF` empty, `fail(c)`. -/
def State.inspectFail (c : ErrCode) (s : State) : State := ({ s with insr := Insr.clear, obuf := [] } : State).fail c

/-- A successful inspection (R195): the path and index in `INSR`, the text in `OBUF`, `ok`. -/
def State.inspectHit (kind : InspectKind) (i : Index) (text : Bytes) (s : State) : State :=
  ({ s with insr := { kind := kind, index := i }, obuf := text } : State).ok

/-- Every working element cleared (40_bit_codec.md R105); parameters, `CFGERR` and the host's side stay. -/
def State.clearAll (s : State) : State :=
  { s with
    ent := [], entOvf := false, tok := [], tokOvf := false
    digest := Hash8.zero, cs := 0, csLen := 0, csValid := false
    idx := [], obuf := [], insr := Insr.clear, errs := Errs.clear }

end Sys2Proof.Machine
end

