-- ==== Sys2Proof/Machine/Control.lean ====
section
/-! DEFINITION. The control command (30_encoding.md R82): `CLR`. -/

namespace Sys2Proof.Machine

/-- `CLR` (40_bit_codec.md R105). -/
def execClr (s : State) : Outcome := .next s.clearAll.ok

end Sys2Proof.Machine
end

