-- ==== Sys2Proof/Machine/Hash.lean ====
section
/-! DEFINITION. The hash command (30_encoding.md R82): `CSUM`. -/

namespace Sys2Proof.Machine

/-- `CSUM` (42_sha256_checksum.md R155). -/
def execCsum (s : State) : Outcome := .next (s.ifDerivable fun s => s.writeHash.ok)

end Sys2Proof.Machine
end

