-- ==== Sys2Proof/Machine/WordRom.lean ====
section
/-! DEFINITION. The word ROM, its build-time parser, and mnemonic derivation (43_wordlist_derive.md R170 to R180). -/

namespace Sys2Proof.Machine

open Sys2Proof

/-- `ROM(i)` (R170). An i the list does not have cannot be formed while the block runs (20_memory.md R51); the
total function answers the empty word there (log 9). -/
def romWord (p : Params) (i : Index) : Bytes := p.wordlist.getD i.toNat []

/-- Split at every byte `sep`, keeping empty pieces (R173, step 2): always at least one piece. -/
def splitAtByte (sep : Byte) : Bytes → List Bytes
  | [] => [[]]
  | c :: rest =>
    match splitAtByte sep rest with
    | [] => [[c]]
    | line :: lines => if c = sep then [] :: line :: lines else (c :: line) :: lines

/-- The three bytes of the UTF-8 byte-order mark (R173). -/
def byteOrderMark : Bytes := [0xEF, 0xBB, 0xBF]

/-- Remove a leading byte-order mark (R173, step 1). -/
def stripMark (R : Bytes) : Bytes := if R.take 3 = byteOrderMark then R.drop 3 else R

/-- Remove one trailing 0x0D (R173, step 3). -/
def stripCR (line : Bytes) : Bytes := if line.getLast? = some 0x0D then line.dropLast else line

/-- `parseWordList` (R173): how the ROM image is built from the word-list resource, before reset. -/
def parseWordList (R : Bytes) : List Bytes :=
  ((splitAtByte chrLF (stripMark R)).map stripCR).filter fun line => !line.isEmpty

/-- `combined(s)` (R177): the entropy bits first, the checksum bits last. -/
def combined (s : Bits) : Bits := s ++ checksumBits s

/-- Group k of a bit sequence: bits 11k to 11k+10 (R178). -/
def group11 (C : Bits) (k : Nat) : Bits := (C.drop (Config.idxW * k)).take Config.idxW

/-- `deriveIndices(s)` (R178). -/
def deriveIndices (s : Bits) : List Index :=
  (List.range ((combined s).length / Config.idxW)).map fun k => BitVec.ofNat 11 (bitsToInt (group11 (combined s) k))

/-- `joinWords(I)` (R180): the words in order, one `SP` between two of them, nothing before or after. -/
def joinWords (p : Params) : List Index → Bytes
  | [] => []
  | [i] => romWord p i
  | i :: j :: rest => romWord p i ++ chrSP :: joinWords p (j :: rest)

/-- The least i in 0..2047 with `ROM(i) = u`, if there is one (44_inspect.md R195: a linear scan from index 0
upward, equality of byte strings). -/
def findWord (p : Params) (u : Bytes) : Option Nat := (p.wordlist.take Config.wlSize).findIdx? fun w => w == u

end Sys2Proof.Machine
end

