-- ==== Sys2Proof/Machine/Operands.lean ====
section
/-! DEFINITION. The operand forms of the commands (30_encoding.md R75, R84): a byte used as is, a byte presented as
a text character, an index selecting a ROM word. There is no other operand form. -/

namespace Sys2Proof.Machine

open Sys2Proof

/-- `imm8` as the byte it is: no extension, scaling or shift (R75). -/
def byteOperand (imm8 : BitVec 8) : Byte := imm8

/-- `imm8` as an entropy byte: its 8 bits, most significant first (40_bit_codec.md R106). -/
def entropyOperand (imm8 : BitVec 8) : Bits := bytesToBits [byteOperand imm8]

/-- `imm8` as a text character: its bit if it is a binary digit, none if the loader ignores it (41_persist_load.md
R125). -/
def charOperand (imm8 : BitVec 8) : Option Bool := charBit (byteOperand imm8)

/-- `imm11` as an unsigned index: the ROM word it selects (R75, 20_memory.md R51). -/
def wordOperand (p : Params) (imm11 : BitVec 11) : Bytes := romWord p imm11

end Sys2Proof.Machine
end

