-- ==== Sys2Proof/Machine/Input.lean ====
section
/-! DEFINITION. The data-input commands (30_encoding.md R82): `PUSHB`, `PUSHT`, `PUSHK`. -/

namespace Sys2Proof.Machine

open Sys2Proof

/-- `PUSHB imm8` (40_bit_codec.md R106). -/
def execPushb (imm8 : BitVec 8) (s : State) : Outcome := .next (s.presentBits (entropyOperand imm8))

/-- The effect of `PUSHT` (41_persist_load.md R125): a character that is no binary digit is ignored, even while
`ENTOVF` = 1; a digit presents one bit. -/
def State.presentChar (c : Option Bool) (s : State) : State :=
  match c with
  | none => s.ok
  | some b => s.presentBits [b]

/-- `PUSHT imm8` (R125). -/
def execPusht (imm8 : BitVec 8) (s : State) : Outcome := .next (s.presentChar (charOperand imm8))

/-- The effect of `PUSHK` (44_inspect.md R190). -/
def State.presentTokByte (b : Byte) (s : State) : State :=
  if s.tok.length = s.params.tokMax then s.setTokOvf.fail .ovf else (s.appendTok b).ok

/-- `PUSHK imm8` (R190). -/
def execPushk (imm8 : BitVec 8) (s : State) : Outcome := .next (s.presentTokByte (byteOperand imm8))

end Sys2Proof.Machine
end

