-- ==== Sys2Proof/Machine/Token.lean ====
section
/-! DEFINITION. Token inspection's pure functions (44_inspect.md R191 to R194). -/

namespace Sys2Proof.Machine

open Sys2Proof

/-- The bytes `trimSpace` removes (R191): 0x09 to 0x0D and 0x20. -/
def isTrimByte (b : Byte) : Bool :=
  b == 0x09 || b == 0x0A || b == 0x0B || b == 0x0C || b == 0x0D || b == 0x20

/-- `trimSpace` (R191). -/
def trimSpace (t : Bytes) : Bytes := ((t.dropWhile isTrimByte).reverse.dropWhile isTrimByte).reverse

/-- One byte of `toLowerAscii`: 'A'..'Z' to 'a'..'z', every other byte unchanged (R192). -/
def lowerByte (b : Byte) : Byte := if 0x41 ≤ b.toNat ∧ b.toNat ≤ 0x5A then b + 0x20 else b

/-- `toLowerAscii` (R192). -/
def toLowerAscii (t : Bytes) : Bytes := t.map lowerByte

/-- GP's tagged variant (R193). -/
inductive TokenClass where
  | binaryToken
  | wordToken
deriving DecidableEq, Repr

/-- `classifyToken` (R193): on the token exactly as presented. -/
def classifyToken (t : Bytes) : TokenClass := if isBinaryLiteral t then .binaryToken else .wordToken

/-- `padLeft11` (R194). -/
def padLeft11 (t : Bytes) : Bytes := List.replicate (11 - t.length) chr0 ++ t

/-- The bits of a text of binary digits: `'0'` is 0, `'1'` is 1 (R194). -/
def digitBits (t : Bytes) : Bits := t.map fun c => c == chr1

/-- The index a binary literal of 1 to 11 characters stands for (R194, R195). -/
def literalIndex (t : Bytes) : Index := BitVec.ofNat 11 (bitsToInt (digitBits (padLeft11 t)))

end Sys2Proof.Machine
end

