-- ==== Sys2Proof/Machine/Rom.lean ====
section
/-! DEFINITION. The word-ROM commands (30_encoding.md R82): `DERIVE`, `LOOKUP`, `INSPECT`. -/

namespace Sys2Proof.Machine

open Sys2Proof

/-- The writes of a successful `DERIVE` (43_wordlist_derive.md R181): the hash part of `CSUM`, then `IDX` and the
mnemonic in `OBUF`. -/
def State.writeMnemonic (s : State) : State :=
  (s.writeHash.writeIdx (deriveIndices s.ent)).writeObuf (joinWords s.params (deriveIndices s.ent))

/-- `DERIVE` (R181). -/
def execDerive (s : State) : Outcome := .next (s.ifDerivable fun s => s.writeMnemonic.ok)

/-- `LOOKUP imm11` (R176). -/
def execLookup (imm11 : BitVec 11) (s : State) : Outcome := .next (s.writeObuf (wordOperand s.params imm11)).ok

/-- The verdict on a binary token t (44_inspect.md R195): at most 11 characters, then the word at its index. -/
def State.inspectBinary (t : Bytes) (s : State) : State :=
  if t.length > 11 then s.inspectFail .range
  else s.inspectHit .binary (literalIndex t) (romWord s.params (literalIndex t))

/-- The verdict on a word token t (R195): lowercased and trimmed, then the least matching index. -/
def State.inspectWord (t : Bytes) (s : State) : State :=
  match findWord s.params (trimSpace (toLowerAscii t)) with
  | some i => s.inspectHit .word (BitVec.ofNat 11 i) (bin11 (BitVec.ofNat 11 i))
  | none => s.inspectFail .lookup

/-- The effect of `INSPECT` (R195): the token is always consumed; an overflowed token gets no verdict. -/
def State.inspectToken (s : State) : State :=
  if s.tokOvf then s.consumeTok.inspectFail .ovf
  else
    match classifyToken s.tok with
    | .binaryToken => s.consumeTok.inspectBinary s.tok
    | .wordToken => s.consumeTok.inspectWord s.tok

/-- `INSPECT` (R195). -/
def execInspect (s : State) : Outcome := .next s.inspectToken

end Sys2Proof.Machine
end

