-- ==== Sys2Proof/Machine/Text.lean ====
section
/-! DEFINITION. The persisted text: `serializeText` and `loadFilter` (41_persist_load.md R120 to R123). -/

namespace Sys2Proof.Machine

open Sys2Proof

/-- What follows the j-th digit (j counted from 1) of a text of n digits (R121): `LF` at the end of a full line of
66 bits, `SP` between two groups of one line, nothing otherwise. -/
def separatorAfter (n j : Nat) : Bytes :=
  if j % (Config.groupW * Config.lineGroups) = 0 then [chrLF]
  else if j % Config.groupW = 0 ∧ j < n then [chrSP]
  else []

/-- The loop of R121 over the bits from position i on, n being the length of the whole sequence; after the last
bit it closes a partial line. -/
def serializeFrom (n : Nat) : Nat → Bits → Bytes
  | _, [] => if n % (Config.groupW * Config.lineGroups) ≠ 0 then [chrLF] else []
  | i, b :: rest => digitChar b :: (separatorAfter n (i + 1) ++ serializeFrom n (i + 1) rest)

/-- `serializeText` (R121). -/
def serializeText (s : Bits) : Bytes := serializeFrom s.length 0 s

/-- `loadFilter` (R123): one bit per byte that is `'0'` or `'1'`, every other byte dropped. -/
def loadFilter (F : Bytes) : Bits := F.filterMap charBit

end Sys2Proof.Machine
end

