-- ==== Sys2Proof/Machine/Serializers.lean ====
section
/-! DEFINITION. The serializers (30_encoding.md R82): `PACK`, `SERIAL`. -/

namespace Sys2Proof.Machine

/-- `PACK` (40_bit_codec.md R107). -/
def execPack (s : State) : Outcome := .next (s.unlessOverflowed fun s => (s.writeObuf (bitsToBytes s.ent)).ok)

/-- `SERIAL` (41_persist_load.md R122). -/
def execSerial (s : State) : Outcome := .next (s.unlessOverflowed fun s => (s.writeObuf (serializeText s.ent)).ok)

end Sys2Proof.Machine
end

