-- ==== Sys2Proof/Machine/Dispatch.lean ====
section
/-! DEFINITION. `exec`: step (3) of `CmdWrite` (30_encoding.md R70), one arm per command. -/

namespace Sys2Proof.Machine

open Sys2Proof

def exec (i : Instr) (s : State) : Host.Outcome State Fault Refusal :=
  match i with
  -- control
  | .clr => Sys2Proof.Machine.execClr s
  -- data input
  | .pushb imm8 => Sys2Proof.Machine.execPushb imm8 s
  | .pusht imm8 => Sys2Proof.Machine.execPusht imm8 s
  | .pushk imm8 => Sys2Proof.Machine.execPushk imm8 s
  -- serializers
  | .pack => Sys2Proof.Machine.execPack s
  | .serial => Sys2Proof.Machine.execSerial s
  -- hash
  | .csum => Sys2Proof.Machine.execCsum s
  -- word ROM
  | .derive => Sys2Proof.Machine.execDerive s
  | .lookup imm11 => Sys2Proof.Machine.execLookup imm11 s
  | .inspect => Sys2Proof.Machine.execInspect s

end Sys2Proof.Machine
end

