-- ==== Sys2Proof/Machine/Regs.lean ====
section
/-! DEFINITION. The host-visible register map (10_state.md R39 to R41; 20_memory.md R61). -/

namespace Sys2Proof.Machine

open Sys2Proof

/-- Register number 0x010, `CMD`: the one writable location (R39, R42). -/
def cmdReg : RegNum := 0x010

/-- `DIGEST[j]` (R24), 0 <= j <= 7. -/
def Hash8.get (H : Hash8) : Nat → Word
  | 0 => H.h0
  | 1 => H.h1
  | 2 => H.h2
  | 3 => H.h3
  | 4 => H.h4
  | 5 => H.h5
  | 6 => H.h6
  | _ => H.h7

/-- `zext_32(v)` (00_scope.md R8): v as 32 bits. R8 requires v < 2^32; DESIGN CHOICE (log 16): for any other v, which a
valid block meets in `TOKLEN` with a `TOK_MAX` of 2^32 or more, the value is free. -/
def zext32 (v : Nat) : Word := if v < 2 ^ 32 then BitVec.ofNat 32 v else Config.unfitRegWord v

/-- The first of the index registers `IDXk` (R40). -/
def idxBase : Nat := 0x040

/-- The first of the output-byte registers `OBUFi` (R40). -/
def obufBase : Nat := 0x100

/-- `IDXk` (R40): `zext_32(IDX[k])` if k < NIDX, else 0. -/
def readIdx (s : State) (k : Nat) : Word := (s.idx.getD k 0).setWidth 32

/-- `OBUFi` (R40): `zext_32(OBUF[i])` if i < OLEN, else 0. -/
def readObuf (s : State) (i : Nat) : Word := (s.obuf.getD i 0).setWidth 32

/-- `RegRead(n)` (R40): a value, no effect. `CMD` and every unmapped number read 0. -/
def regRead (s : State) (n : RegNum) : Word :=
  let k := n.toNat
  if k = 0x000 then statusWord s
  else if k = 0x001 then zext32 s.ent.length
  else if k = 0x002 then zext32 s.csLen
  else if k = 0x003 then zext32 s.cs
  else if k = 0x004 then zext32 s.idx.length
  else if k = 0x005 then zext32 s.obuf.length
  else if k = 0x006 then zext32 s.tok.length
  else if k = 0x007 then insrWord s.insr
  else if k < 0x010 then s.digest.get (k - 0x008)
  else if idxBase ≤ k ∧ k < idxBase + s.params.nidxMax then readIdx s (k - idxBase)
  else if obufBase ≤ k ∧ k < obufBase + s.params.obufSize then readObuf s (k - obufBase)
  else 0

end Sys2Proof.Machine
end

