-- ==== Sys2Proof/Machine/Command.lean ====
section
/-! DEFINITION. `CmdWrite` (30_encoding.md R70) and the host's accesses (10_state.md R40, R42). -/

namespace Sys2Proof.Machine

open Sys2Proof

/-- `CmdWrite(w)` (R70), in its order: the CFGERR state refuses every word (60_exceptions.md R213); an illegal word
fails (R77); a legal one is executed. -/
def cmdWrite (w : Word) (s : State) : Outcome :=
  if s.cfgErr then .next (s.fail .config)
  else
    match decode w with
    | .error _ => .next (s.fail .illegal)
    | .ok i => exec i s

/-- The host receives the value of register n; the block's state does not change (R40, R60). -/
def State.receive (n : RegNum) (s : State) : State := { s with received := regRead s n :: s.received }

/-- One host access (R40, R42): a read returns a value, a write of `CMD` is a command, any other write is ignored. -/
def hostAccess (a : HostAccess) (s : State) : Outcome :=
  match a with
  | .read n => .next (s.receive n)
  | .write n w => if n = cmdReg then cmdWrite w s else .next s

/-- The host's accesses replaced. -/
def State.withHost (h : List HostAccess) (s : State) : State := { s with host := h }

/-- The host's next access, taken off its sequence, and the block's whole reaction to it (00_scope.md R13). With no
access left nothing happens: the block never acts on its own (log 3). -/
def nextAccess (s : State) : Outcome :=
  match s.host with
  | [] => .next s
  | a :: rest => hostAccess a (s.withHost rest)

end Sys2Proof.Machine
end

