-- ==== Sys2Proof/Machine/Step.lean ====
section
/-! DEFINITION. One step of the machine, and how one command is placed as the next thing it runs. -/

namespace Sys2Proof.Machine

open Sys2Proof

/-- One step: the host's next access and the block's reaction to it (00_scope.md R13). -/
def step (s : State) : Host.Outcome State Fault Refusal := nextAccess s

/-- s with the table word w (its low `nbits` bits, the rest 0) as the host's very next `CmdWrite`. The block fetches
nothing (10_state.md R35): a program is the host's sequence of accesses (log 6). -/
def State.withFetchWord (s : State) (nbits w : Nat) : State :=
  s.withHost (.write cmdReg (BitVec.ofNat 32 (w % 2 ^ nbits)) :: s.host)

end Sys2Proof.Machine
end

