-- ==== Sys2Proof/Machine/Programs.lean ====
section
/-! DEFINITION. The pseudo-commands and the command sequences of GP's operations (30_encoding.md R80). -/

namespace Sys2Proof.Machine

open Sys2Proof

/-- `PUSHB* b0 b1 ... bn` (R80). -/
def pushBytes (B : Bytes) : List Instr := B.map Instr.pushb

/-- `PUSHT* "text"` (R80). -/
def pushText (F : Bytes) : List Instr := F.map Instr.pusht

/-- `PUSHK* "text"` (R80). -/
def pushToken (t : Bytes) : List Instr := t.map Instr.pushk

/-- `PUSHB^n b` (R80). -/
def pushByteTimes (n : Nat) (b : Byte) : List Instr := List.replicate n (.pushb b)

/-- *Load Entropy* of a file with content F (R80). -/
def loadEntropy (F : Bytes) : List Instr := .clr :: pushText F

/-- *Persist Entropy* of the bytes B (R80); the host then writes `OBUF` to the file. -/
def persistEntropy (B : Bytes) : List Instr := .clr :: (pushBytes B ++ [.serial])

/-- *Derive Mnemonic* from a file with content F (R80); the host then reads `OBUF`. -/
def deriveMnemonic (F : Bytes) : List Instr := loadEntropy F ++ [.derive]

/-- *Inspect Token* t (R80). -/
def inspectToken (t : Bytes) : List Instr := pushToken t ++ [.inspect]

/-- The host accesses that issue commands: each is a write of its word to `CMD` (10_state.md R42). -/
def issue (cmds : List Instr) : List HostAccess := cmds.map fun i => .write cmdReg (encode i)

end Sys2Proof.Machine
end

