-- ==== Sys2Proof/Safety.lean ====
section
/-! DEFINITION. What counts as a safe run, in the terms the statements use: the premises on the ROM, the legal states,
the capacity form of the buffers, and runs of command sequences. -/

namespace Sys2Proof.Machine

open Sys2Proof

/-- The premises of 43_wordlist_derive.md R172 on one ROM word, (a) to (d). -/
def wordPremises (p : Params) (w : Bytes) : Prop :=
  1 ≤ w.length ∧ w.length ≤ p.wordMax ∧ chrSP ∉ w ∧ trimSpace w = w ∧ toLowerAscii w = w ∧ isBinaryLiteral w = false

/-- The premises of R171 and R172 on the ROM: 2048 words, each as `wordPremises` says, pairwise distinct (e). -/
def RomPremises (p : Params) : Prop :=
  p.wordlist.length = Config.wlSize ∧ (∀ w ∈ p.wordlist, wordPremises p w) ∧ p.wordlist.Nodup

/-- The form of the buffers: each within its capacity (10_state.md R43, 20_memory.md R52, R53). -/
abbrev Memory.wf (s : State) : Prop :=
  s.ent.length ≤ s.params.entMax ∧ s.tok.length ≤ s.params.tokMax ∧ s.idx.length ≤ s.params.nidxMax ∧
    s.obuf.length ≤ s.params.obufSize

/-- `CSVALID` = 1 says that `DIGEST`, `CS`, `CSLEN` were computed from the present `ENT` (10_state.md R26, R43). -/
def checksumCurrent (s : State) : Prop :=
  s.csValid = true →
    0 < s.ent.length ∧ s.ent.length % 32 = 0 ∧ s.csLen = s.ent.length / 32 ∧
      s.digest = sha256 (bitsToBytes s.ent) ∧ s.cs = bitsToInt (checksumBits s.ent)

/-- The legal states of a block whose parameters meet R6 and whose words fit `WORD_MAX`: the ranges and invariants of
10_state.md R43, R21, R23, R30, R31, R32, R45. (The ranges of `IDX[k]`, `INSR.KIND`, `INSR.INDEX` and `LASTERR` are their
types'.) -/
structure Legal (s : State) : Prop where
  /-- R6: the parameters are a block's. -/
  params : s.params.valid = true
  /-- R172 (a): the words fit. -/
  words : s.params.wordsFit = true
  /-- R43: the buffers are within their capacities. -/
  buffers : Memory.wf s
  /-- R43: CSLEN <= CS_MAX. -/
  csLen : s.csLen ≤ s.params.csMax
  /-- R43: CS < 2^CSLEN. -/
  cs : s.cs < 2 ^ s.csLen
  /-- R26, R43. -/
  checksum : checksumCurrent s
  /-- R215: ENTOVF = 1 implies ENTLEN >= ENT_MAX - 7. -/
  entOvf : s.entOvf = true → s.params.entMax ≤ s.ent.length + 7
  /-- R43: TOKOVF = 1 implies TOKLEN = TOK_MAX. -/
  tokOvf : s.tokOvf = true → s.tok.length = s.params.tokMax
  /-- R32: CFGERR says whether the ROM holds 2048 words. -/
  cfgErr : s.cfgErr = (s.params.wordlist.length != Config.wlSize)
  /-- R30, R31: a failing last command left its sticky bit. -/
  lastErr : ∀ c, s.lastErr = .err c → s.errs.get c = true
  /-- R31, R45: ERRS[1] is set at reset exactly when CFGERR is, and nothing but reset sets or clears it. -/
  errConfig : s.errs.config = s.cfgErr
  /-- R43, R213: in the CFGERR state the block's state is the reset state. -/
  stuck : s.cfgErr = true → s = { State.resetWith s.params with host := s.host, received := s.received }

/-- The fault mark of 60_exceptions.md R221: no command has failed since the last reset or successful `CLR`. -/
def noErrors (s : State) : Prop := s.errs = Errs.clear

/-- k steps of the machine. -/
abbrev run (k : Nat) (s : State) : Outcome := Host.Core.run Sys2Proof.core k s

/-- A run of a command sequence from s: the host issues the commands, then as many steps as there are commands. -/
def runCommands (cmds : List Instr) (s : State) : Outcome := run cmds.length (s.withHost (issue cmds))

end Sys2Proof.Machine
end

