-- ==== Sys2Proof/Certificates/Slice0/Obligations.lean ====
section
/-! DEFINITION. The statements about the model, from the spec's numbered rules. Most effects are given as the whole
next state, `{ s with … }`: every field such a record does not name is unchanged, which is the command's frame. -/

namespace Sys2Proof.Spec

open Sys2Proof Sys2Proof.Machine

/-- Written as the word w in `CMD`, the command i is executed, unless the block is in the CFGERR state, where the word
fails with `ERR_CONFIG` and changes nothing else (30_encoding.md R70; the Encoding and Errors lines of a command's
rule). That the host's accesses stand in State as a list is the model's (log 2). -/
def IssuedAs (w : Word) (i : Instr) : Prop :=
  ∀ (s : State) (rest : List HostAccess), s.host = .write 0x010 w :: rest →
    step s =
      if s.cfgErr then
        .next { s with host := rest, lastErr := .err .config, errs := { s.errs with config := true } }
      else exec i { s with host := rest }

/-- The number a text of binary digits writes, read from the left (44_inspect.md R194). -/
def literalValue (t : Bytes) : Nat := t.foldl (fun v c => 2 * v + if c = 0x31 then 1 else 0) 0

/-- The block's own state: the host agent's side left out (10_state.md R35). -/
def blockOf (s : State) : State := { s with host := [], received := [] }

/-- The entropy buffer holds nothing `CSUM` and `DERIVE` accept: the code they report then, in the order of
60_exceptions.md R215. -/
def hashRefusal (s : State) : Option ErrCode :=
  if s.entOvf then some .ovf
  else if s.ent.length = 0 then some .empty
  else if s.ent.length % 32 ≠ 0 then some .len
  else none

/-- The first n/32 bits of the SHA-256 hash of the entropy bytes, the most significant bit of hash byte 0 first
(42_sha256_checksum.md R153). -/
def leadingHashBits (s : Bits) : Bits := (bytesToBits (sha256 (bitsToBytes s)).bytes).take (s.length / 32)

end Sys2Proof.Spec

open Sys2Proof Sys2Proof.Machine Sys2Proof.Spec

/-! ## Reset, registers, flags -/

/-- 10_state.md R45: every element of the reset state, for every ROM image, and what every register then reads. -/
def Obligations.ResetStateOfEveryRomImage : Prop :=
  ∀ p : Params,
    let s := State.resetWith p
    let bad : Bool := p.wordlist.length != 2048
    s.params = p ∧ s.ent = [] ∧ s.entOvf = false ∧ s.tok = [] ∧ s.tokOvf = false ∧
    s.digest.words = List.replicate 8 0 ∧ s.cs = 0 ∧ s.csLen = 0 ∧ s.csValid = false ∧
    s.idx = [] ∧ s.obuf = [] ∧ s.insr.kind = .noResult ∧ s.insr.index = 0 ∧
    s.cfgErr = bad ∧ s.lastErr = (if bad then .err .config else .ok) ∧
    (∀ c, s.errs.get c = (bad && c == .config)) ∧
    regRead s 0x000 = (if bad then 0x00000211 else 0x00000000) ∧
    ∀ n : RegNum, n ≠ 0x000 → regRead s n = 0

/-- The register map of 10_state.md R40 in every legal state, number by number, INSR.KIND by R29's numbers; a read changes
nothing of the block and a write to any number but 0x010 is ignored. (`zext_32(TOKLEN)` requires a length below 2^32,
00_scope.md R8; what a longer token's length reads as is a free value of the model, log 16. That the host's accesses and
what it has read stand in State is the model's, log 2.) -/
def Obligations.RegisterMapReadsAsTabulated : Prop :=
  (∀ s : State, Legal s →
    regRead s 0x000 = statusWord s ∧
    (regRead s 0x001).toNat = s.ent.length ∧ (regRead s 0x002).toNat = s.csLen ∧ (regRead s 0x003).toNat = s.cs ∧
    (regRead s 0x004).toNat = s.idx.length ∧ (regRead s 0x005).toNat = s.obuf.length ∧
    (s.tok.length < 2 ^ 32 → (regRead s 0x006).toNat = s.tok.length) ∧
    (regRead s 0x007).extractLsb' 0 11 = s.insr.index ∧
    (regRead s 0x007).extractLsb' 16 2 =
      (match s.insr.kind with | .noResult => 0 | .binary => 1 | .word => 2) ∧
    (regRead s 0x007).extractLsb' 11 5 = 0 ∧ (regRead s 0x007).extractLsb' 18 14 = 0 ∧
    (∀ j < 8, some (regRead s (BitVec.ofNat 12 (0x008 + j))) = s.digest.words[j]?) ∧
    regRead s 0x010 = 0 ∧
    (∀ k < s.params.nidxMax, (regRead s (BitVec.ofNat 12 (0x040 + k))).toNat =
      if h : k < s.idx.length then s.idx[k].toNat else 0) ∧
    (∀ i < s.params.obufSize, (regRead s (BitVec.ofNat 12 (0x100 + i))).toNat =
      if h : i < s.obuf.length then s.obuf[i].toNat else 0) ∧
    ∀ n : RegNum, (0x010 < n.toNat ∧ n.toNat < 0x040) ∨ (0x040 + s.params.nidxMax ≤ n.toNat ∧ n.toNat < 0x100) ∨
      0x100 + s.params.obufSize ≤ n.toNat → regRead s n = 0) ∧
  (∀ (s : State) (n : RegNum) (rest : List HostAccess), s.host = .read n :: rest →
    step s = .next { s with host := rest, received := regRead s n :: s.received }) ∧
  ∀ (s : State) (n : RegNum) (w : Word) (rest : List HostAccess), n ≠ 0x010 → s.host = .write n w :: rest →
    step s = .next { s with host := rest }

/-- The fields of `STATUS` (10_state.md R41), bit by bit, in every state, and the whole word at reset. -/
def Obligations.StatusFieldsStandWhereTabulated : Prop :=
  (∀ s : State,
    (statusWord s).extractLsb' 0 4 = s.lastErr.bits ∧ (statusWord s).getLsbD 4 = s.cfgErr ∧
    (statusWord s).getLsbD 5 = s.entOvf ∧ (statusWord s).getLsbD 6 = s.tokOvf ∧
    (statusWord s).getLsbD 7 = s.csValid ∧ (statusWord s).getLsbD 8 = false ∧
    (∀ c : ErrCode, (statusWord s).getLsbD (8 + c.num) = s.errs.get c) ∧
    (statusWord s).extractLsb' 16 16 = 0) ∧
  ∀ p : Params, statusWord (State.resetWith p) =
    if p.wordlist.length = 2048 then 0x00000000 else 0x00000211

/-- The result codes (60_exceptions.md R210): `LASTERR` reads the tabulated number, so no code above 7. The kinds of `INSR`
(10_state.md R29): no result 0, binary path 1, word path 2, never 3. -/
def Obligations.CodesAndKindsAreNumberedAsTabulated : Prop :=
  ResultCode.bits .ok = 0 ∧ ResultCode.bits (.err .config) = 1 ∧ ResultCode.bits (.err .illegal) = 2 ∧
  ResultCode.bits (.err .ovf) = 3 ∧ ResultCode.bits (.err .empty) = 4 ∧ ResultCode.bits (.err .len) = 5 ∧
  ResultCode.bits (.err .range) = 6 ∧ ResultCode.bits (.err .lookup) = 7 ∧
  (∀ r : ResultCode, r.bits.toNat ≤ 7) ∧
  InspectKind.bits .noResult = 0 ∧ InspectKind.bits .binary = 1 ∧ InspectKind.bits .word = 2 ∧
  ∀ k : InspectKind, k.bits ≠ 3

/-! ## Encoding -/

/-- 30_encoding.md R71 to R76: the decoder and the encoder are inverse, with every operand at every value: a word
decodes to a command exactly when it is the command's word. -/
def Obligations.DecodeAndEncodeAreInverse : Prop :=
  ∀ (w : Word) (i : Instr), decode w = .ok i ↔ encode i = w

/-- 30_encoding.md R78: for every word, a legal one is matched by its own row of the table and by no other, an illegal
one by none. -/
def Obligations.ExactlyOneRowMatchesLegalWord : Prop :=
  ∀ w : Word, (opcodeTable.filter fun r => w &&& r.mask == r.matchBits).map TableRow.mnemonic =
    match decode w with
    | .ok i => [i.mnemonic]
    | .error _ => []

/-- 30_encoding.md R78's count: 2822 words are legal. -/
def Obligations.LegalWordsNumber2822 : Prop :=
  ∃ L : List Word, L.Nodup ∧ L.length = 2822 ∧ ∀ w : Word, w ∈ L ↔ ∃ i, decode w = .ok i

/-- 30_encoding.md R77: a word that no row of R76 matches has an unassigned opcode or a reserved bit set, and the
other way round; written to `CMD` it fails with `ERR_ILLEGAL` and changes nothing else. -/
def Obligations.IllegalWordFailsAndChangesNothing : Prop :=
  (∀ w : Word, (∀ r ∈ opcodeTable, w &&& r.mask ≠ r.matchBits) ↔
    w.extractLsb' 24 8 ∉ [0x01#8, 0x10#8, 0x11#8, 0x12#8, 0x20#8, 0x21#8, 0x30#8, 0x31#8, 0x40#8, 0x41#8] ∨
    (w.extractLsb' 24 8 ∈ [0x01#8, 0x20#8, 0x21#8, 0x30#8, 0x31#8, 0x41#8] ∧ w.extractLsb' 0 24 ≠ 0) ∨
    (w.extractLsb' 24 8 ∈ [0x10#8, 0x11#8, 0x12#8] ∧ w.extractLsb' 8 16 ≠ 0) ∨
    (w.extractLsb' 24 8 = 0x40#8 ∧ w.extractLsb' 11 13 ≠ 0)) ∧
  (∀ r ∈ opcodeTable, (0x00000000 : Word) &&& r.mask ≠ r.matchBits ∧ (0xFFFFFFFF : Word) &&& r.mask ≠ r.matchBits) ∧
  ∀ (s : State) (w : Word) (rest : List HostAccess), s.cfgErr = false → s.host = .write 0x010 w :: rest →
    (∀ r ∈ opcodeTable, w &&& r.mask ≠ r.matchBits) →
    step s = .next { s with host := rest, lastErr := .err .illegal, errs := { s.errs with illegal := true } }

/-- The fifteen example words of 30_encoding.md R81, written out, and its seven illegal ones. -/
def Obligations.ExampleWordsDecodeAsListed : Prop :=
  decode 0x01000000 = .ok .clr ∧ decode 0x100000A5 = .ok (.pushb 0xA5) ∧ decode 0x11000030 = .ok (.pusht 0x30) ∧
  decode 0x11000031 = .ok (.pusht 0x31) ∧ decode 0x11000020 = .ok (.pusht 0x20) ∧ decode 0x1100000A = .ok (.pusht 0x0A) ∧
  decode 0x1200007A = .ok (.pushk 0x7A) ∧ decode 0x20000000 = .ok .pack ∧ decode 0x21000000 = .ok .serial ∧
  decode 0x30000000 = .ok .csum ∧ decode 0x31000000 = .ok .derive ∧ decode 0x40000000 = .ok (.lookup 0) ∧
  decode 0x40000005 = .ok (.lookup 5) ∧ decode 0x400007FF = .ok (.lookup 2047) ∧ decode 0x41000000 = .ok .inspect ∧
  ∀ w ∈ [0x00000000#32, 0x01000001#32, 0x10000100#32, 0x40000800#32, 0x02000000#32, 0x42000000#32, 0xFFFFFFFF#32],
    ∀ i, decode w ≠ .ok i

/-- 30_encoding.md R79, R75: every command is the one its notation assembles to, every well-formed notation is some
command's, and the word is `opcode << 24 | imm`. -/
def Obligations.AssemblerNotationRoundTrips : Prop :=
  (∀ i : Instr, i.wellFormed = true ∧ assemble i.source = some i) ∧
  (∀ c : Source, c.wellFormed = true ↔ ∃ i, assemble c = some i ∧ i.source = c) ∧
  ∀ i : Instr, (encode i).toNat = i.opcode.toNat * 2 ^ 24 + i.immediate.getD 0

/-! ## The step -/

/-- 30_encoding.md R70: `CmdWrite(w)` in its order. In the CFGERR state the word fails with `ERR_CONFIG`; otherwise an
illegal word fails with `ERR_ILLEGAL`; otherwise the step is the execution of the decoded command, the host having
issued it. -/
def Obligations.StepExecutesTheDecodedCommand : Prop :=
  ∀ (s : State) (w : Word) (rest : List HostAccess), s.host = .write 0x010 w :: rest →
    (s.cfgErr = true → step s =
      .next { s with host := rest, lastErr := .err .config, errs := { s.errs with config := true } }) ∧
    (∀ e, s.cfgErr = false → decode w = .error e → step s =
      .next { s with host := rest, lastErr := .err .illegal, errs := { s.errs with illegal := true } }) ∧
    (∀ i, s.cfgErr = false → decode w = .ok i → step s = exec i { s with host := rest })

/-- 70_reset_and_hazards.md R252: no step stops, and a finite sequence of host accesses always reaches its end. (That
a step with no access left changes nothing is the model's, log 3.) -/
def Obligations.EverySequenceReachesItsEnd : Prop :=
  (∀ s : State, ∃ t, step s = .next t) ∧
  (∀ s : State, s.host = [] → step s = .next s) ∧
  ∀ s : State, ∃ t, run s.host.length s = .next t ∧ t.host = []

/-- 60_exceptions.md R213: a block whose ROM does not hold 2048 words stays in its reset state through any number of
accesses, whatever words are written. -/
def Obligations.CfgErrStateNeverChanges : Prop :=
  ∀ (p : Params) (accesses : List HostAccess) (k : Nat), p.wordlist.length ≠ 2048 →
    ∃ t, run k ((State.resetWith p).withHost accesses) = .next t ∧ blockOf t = State.resetWith p ∧
      regRead t 0x000 = 0x00000211 ∧ ∀ n : RegNum, n ≠ 0x000 → regRead t n = 0

/-- 10_state.md R32, R33: no step writes the ROM image, the other parameters or `CFGERR`. (That the parameters stand
in State is the model's, log 1.) -/
def Obligations.ParametersAndCfgErrAreConstant : Prop :=
  ∀ s t : State, step s = .next t → t.params = s.params ∧ t.cfgErr = s.cfgErr

/-- 10_state.md R43, the notes of R215 and R31's `ERRS[1]` (equal to `CFGERR`, so set and cleared by reset only): the legal
states are kept by every step. -/
def Obligations.EveryStepKeepsLegality : Prop :=
  ∀ s t : State, Legal s → step s = .next t → Legal t

/-- The reset state of every block within R6 and R172 (a) is legal, with a good ROM or a bad one. -/
def Obligations.ResetStateIsLegal : Prop :=
  ∀ p : Params, p.valid = true → p.wordsFit = true → Legal (State.resetWith p)

/-- 10_state.md R31: `ERRS[c]` after a command, exactly: set by a command that ends with code c, cleared by a
successful `CLR` only, else kept; no other access touches it; at reset all 0 but `ERRS[1]` of a bad ROM, which no step
from a legal state clears. -/
def Obligations.ErrorBitsAreSticky : Prop :=
  (∀ (s t : State) (w : Word) (rest : List HostAccess) (c : ErrCode), s.host = .write 0x010 w :: rest →
    step s = .next t →
    t.errs.get c = if w = 0x01000000 ∧ s.cfgErr = false then false else s.errs.get c || t.lastErr == .err c) ∧
  (∀ s t : State, (∀ w rest, s.host ≠ .write 0x010 w :: rest) → step s = .next t →
    t.errs = s.errs ∧ t.lastErr = s.lastErr) ∧
  (∀ s t : State, Legal s → step s = .next t → t.errs.get .config = s.errs.get .config) ∧
  ∀ (p : Params) (c : ErrCode), (State.resetWith p).errs.get c = true ↔ c = .config ∧ p.wordlist.length ≠ 2048

/-- 60_exceptions.md R211: a command that ends with code c changes nothing but `LASTERR`, `ERRS[c]` and the extra
writes its rule lists: `ENTOVF` (`PUSHB`, `PUSHT`), `TOKOVF` (`PUSHK`), the token and the result (`INSPECT`). A command
that ends with `ok` leaves `ERRS` as it was, `CLR` apart. -/
def Obligations.FailChangesOnlyWhatItsRuleLists : Prop :=
  (∀ (i : Instr) (s t : State) (c : ErrCode), exec i s = .next t → t.lastErr = .err c →
    (∀ d, t.errs.get d = (s.errs.get d || d == c)) ∧
    match i with
    | .pushb _ | .pusht _ => t = { s with entOvf := true, lastErr := t.lastErr, errs := t.errs }
    | .pushk _ => t = { s with tokOvf := true, lastErr := t.lastErr, errs := t.errs }
    | .inspect => t = { s with tok := [], tokOvf := false, insr := { kind := .noResult, index := 0 }, obuf := [],
                               lastErr := t.lastErr, errs := t.errs }
    | _ => t = { s with lastErr := t.lastErr, errs := t.errs }) ∧
  ∀ (i : Instr) (s t : State), exec i s = .next t → t.lastErr = .ok → i ≠ .clr → t.errs = s.errs

/-- 10_state.md R44, column by column: which commands may change which element. -/
def Obligations.WriteSetsAreAsTabulated : Prop :=
  ∀ (i : Instr) (s t : State), exec i s = .next t →
    (t.ent ≠ s.ent → i = .clr ∨ (∃ b, i = .pushb b) ∨ ∃ c, i = .pusht c) ∧
    (t.entOvf ≠ s.entOvf → i = .clr ∨ (∃ b, i = .pushb b) ∨ ∃ c, i = .pusht c) ∧
    (t.tok ≠ s.tok → i = .clr ∨ i = .inspect ∨ ∃ b, i = .pushk b) ∧
    (t.tokOvf ≠ s.tokOvf → i = .clr ∨ i = .inspect ∨ ∃ b, i = .pushk b) ∧
    (t.digest ≠ s.digest ∨ t.cs ≠ s.cs ∨ t.csLen ≠ s.csLen → i = .clr ∨ i = .csum ∨ i = .derive) ∧
    (t.csValid ≠ s.csValid → i = .clr ∨ i = .csum ∨ i = .derive ∨ (∃ b, i = .pushb b) ∨ ∃ c, i = .pusht c) ∧
    (t.idx ≠ s.idx → i = .clr ∨ i = .derive) ∧
    (t.obuf ≠ s.obuf → i ∈ [.clr, .pack, .serial, .derive, .inspect] ∨ ∃ k, i = .lookup k) ∧
    (t.insr ≠ s.insr → i = .clr ∨ i = .inspect) ∧
    (t.errs ≠ s.errs → ∀ k, i ≠ .lookup k) ∧
    t.params = s.params ∧ t.cfgErr = s.cfgErr ∧ t.host = s.host ∧ t.received = s.received

/-- 20_memory.md R60: repeating `PACK`, `SERIAL`, `CSUM`, `DERIVE` or `LOOKUP` at once gives the same state. -/
def Obligations.ProducersAreIdempotent : Prop :=
  ∀ (i : Instr) (s t : State), i ∈ [.pack, .serial, .csum, .derive] ∨ (∃ k, i = .lookup k) → exec i s = .next t →
    exec i t = .next t

/-! ## Control and input commands -/

/-- `CLR` (40_bit_codec.md R105): every working element cleared, `LASTERR` 0; with a good ROM the state is then the
reset state. -/
def Obligations.ClearGivesTheResetState : Prop :=
  IssuedAs 0x01000000 .clr ∧
  (∀ s : State, exec .clr s = .next
    { s with
      ent := [], entOvf := false, tok := [], tokOvf := false
      digest := { h0 := 0, h1 := 0, h2 := 0, h3 := 0, h4 := 0, h5 := 0, h6 := 0, h7 := 0 }
      cs := 0, csLen := 0, csValid := false, idx := [], obuf := []
      insr := { kind := .noResult, index := 0 }, lastErr := .ok
      errs := { config := false, illegal := false, ovf := false, empty := false, len := false, range := false,
                lookup := false } }) ∧
  ∀ s : State, s.cfgErr = false → s.params.wordlist.length = 2048 →
    exec .clr s = .next { State.resetWith s.params with host := s.host, received := s.received }

/-- `PUSHB imm8` (40_bit_codec.md R106): all 8 bits, most significant first, or none. -/
def Obligations.PushbAppendsEightBitsOrNone : Prop :=
  ∀ imm8 : BitVec 8, IssuedAs (0x10000000 ||| imm8.setWidth 32) (.pushb imm8) ∧ ∀ s : State,
    (s.entOvf = true ∨ s.ent.length + 8 > s.params.entMax → exec (.pushb imm8) s = .next
      { s with entOvf := true, lastErr := .err .ovf, errs := { s.errs with ovf := true } }) ∧
    (s.entOvf = false → s.ent.length + 8 ≤ s.params.entMax →
      ∃ e, exec (.pushb imm8) s = .next { s with ent := e, csValid := false, lastErr := .ok } ∧
        e.length = s.ent.length + 8 ∧ e.take s.ent.length = s.ent ∧
        ∀ i < 8, e[s.ent.length + i]? = some (imm8.getLsbD (7 - i)))

/-- `PUSHT imm8` (41_persist_load.md R125): a character that is no binary digit is ignored, a digit appends its bit
or overflows. -/
def Obligations.PushtAppendsDigitsAndIgnoresTheRest : Prop :=
  ∀ imm8 : BitVec 8, IssuedAs (0x11000000 ||| imm8.setWidth 32) (.pusht imm8) ∧ ∀ s : State,
    (imm8 ≠ 0x30 ∧ imm8 ≠ 0x31 → exec (.pusht imm8) s = .next { s with lastErr := .ok }) ∧
    (imm8 = 0x30 ∨ imm8 = 0x31 → s.entOvf = true ∨ s.ent.length + 1 > s.params.entMax →
      exec (.pusht imm8) s = .next
        { s with entOvf := true, lastErr := .err .ovf, errs := { s.errs with ovf := true } }) ∧
    (imm8 = 0x30 ∨ imm8 = 0x31 → s.entOvf = false → s.ent.length + 1 ≤ s.params.entMax →
      exec (.pusht imm8) s = .next
        { s with ent := s.ent ++ [decide ((imm8 - 0x30).toNat = 1)], csValid := false, lastErr := .ok })

/-- `PUSHK imm8` (44_inspect.md R190): the byte as it is, or an overflow that leaves the token. -/
def Obligations.PushkAppendsTheByteOrOverflows : Prop :=
  ∀ imm8 : BitVec 8, IssuedAs (0x12000000 ||| imm8.setWidth 32) (.pushk imm8) ∧ ∀ s : State,
    (s.tok.length = s.params.tokMax → exec (.pushk imm8) s = .next
      { s with tokOvf := true, lastErr := .err .ovf, errs := { s.errs with ovf := true } }) ∧
    (s.tok.length ≠ s.params.tokMax → exec (.pushk imm8) s = .next
      { s with tok := s.tok ++ [imm8], lastErr := .ok })

/-! ## Serializers -/

/-- `PACK` (40_bit_codec.md R107, with R101's bytes): byte j holds bits 8j to 8j+7, the first one most significant, zero
beyond `ENTLEN`. -/
def Obligations.PackWritesThePaddedBytes : Prop :=
  IssuedAs 0x20000000 .pack ∧ ∀ s : State,
    (s.entOvf = true → exec .pack s = .next { s with lastErr := .err .ovf, errs := { s.errs with ovf := true } }) ∧
    (s.entOvf = false → ∃ bs, exec .pack s = .next { s with obuf := bs, lastErr := .ok } ∧
      bs.length = (s.ent.length + 7) / 8 ∧
      ∀ j < bs.length, ∀ i < 8, (bs.getD j 0).getLsbD (7 - i) = s.ent.getD (8 * j + i) false)

/-- `SERIAL` (41_persist_load.md R122, with R121's layout): the digits in order, `LF` after every sixth group and at the
end, `SP` after every other group that is not the last. -/
def Obligations.SerialWritesTheCanonicalText : Prop :=
  IssuedAs 0x21000000 .serial ∧ ∀ s : State,
    (s.entOvf = true → exec .serial s = .next { s with lastErr := .err .ovf, errs := { s.errs with ovf := true } }) ∧
    (s.entOvf = false → ∃ text, exec .serial s = .next { s with obuf := text, lastErr := .ok } ∧
      text.length = s.ent.length + (s.ent.length + 10) / 11 ∧
      (∀ i, (h : i < s.ent.length) → text[i + i / 11]? = some (if s.ent[i] then 0x31 else 0x30)) ∧
      (∀ k, 11 * (k + 1) < s.ent.length → text[12 * k + 11]? = some (if (k + 1) % 6 = 0 then 0x0A else 0x20)) ∧
      (0 < s.ent.length → text.getLast? = some 0x0A))

/-! ## Hash -/

/-- `CSUM` (42_sha256_checksum.md R155): the refusals in their order, and otherwise the hash of the entropy bytes, the
checksum length and the leading hash bits as an integer. -/
def Obligations.CsumComputesTheChecksum : Prop :=
  IssuedAs 0x30000000 .csum ∧ ∀ s : State,
    (∀ c, hashRefusal s = some c → ∃ e, exec .csum s = .next { s with lastErr := .err c, errs := e } ∧
      ∀ d, e.get d = (s.errs.get d || d == c)) ∧
    (hashRefusal s = none → ∃ v, exec .csum s = .next
        { s with digest := sha256 (bitsToBytes s.ent), csLen := s.ent.length / 32, cs := v, csValid := true,
                 lastErr := .ok } ∧
      v = bitsToInt (leadingHashBits s.ent) ∧
      (s.ent.length / 32 ≤ 32 →
        v = ((sha256 (bitsToBytes s.ent)).h0 >>> (32 - s.ent.length / 32)).toNat))

/-- 42_sha256_checksum.md R140: the word operations are the arithmetic ones. -/
def Obligations.HashWordOperationsAreArithmetic : Prop :=
  (∀ x y : Word, (x + y).toNat = (x.toNat + y.toNat) % 2 ^ 32) ∧
  (∀ (x y : Word) (i : Nat), (x &&& y).getLsbD i = (x.getLsbD i && y.getLsbD i) ∧
    (x ||| y).getLsbD i = (x.getLsbD i || y.getLsbD i) ∧ (x ^^^ y).getLsbD i = (x.getLsbD i != y.getLsbD i)) ∧
  (∀ x : Word, (~~~x).toNat = 2 ^ 32 - 1 - x.toNat) ∧
  (∀ (x : Word) (n : Nat), n < 32 → (shr n x).toNat = x.toNat / 2 ^ n) ∧
  ∀ (x : Word) (n : Nat), 0 < n → n < 32 →
    (rotr n x).toNat = x.toNat / 2 ^ n + x.toNat % 2 ^ n * 2 ^ (32 - n)

/-- 42_sha256_checksum.md R143: the padded message, byte by byte, with the least number of zero bytes. -/
def Obligations.PaddingFillsWholeBlocks : Prop :=
  ∀ M : Bytes, 8 * M.length < 2 ^ 64 → ∃ z,
    (M.length + 1 + z) % 64 = 56 ∧ (∀ y, (M.length + 1 + y) % 64 = 56 → z ≤ y) ∧
    (shaPad M).length = M.length + 1 + z + 8 ∧ (shaPad M).length = 64 * ((M.length + 8) / 64 + 1) ∧
    (shaPad M).take M.length = M ∧ (shaPad M)[M.length]? = some 0x80 ∧
    (∀ y < z, (shaPad M)[M.length + 1 + y]? = some 0x00) ∧
    ∀ i < 8, ((shaPad M).getD (M.length + 1 + z + i) 0).toNat = 8 * M.length / 256 ^ (7 - i) % 256

/-- 42_sha256_checksum.md R146: the schedule's first sixteen words are the message words, every later one follows the
recurrence. -/
def Obligations.ScheduleFollowsItsRecurrence : Prop :=
  ∀ mw : List Word, mw.length = 16 →
    (schedule mw).length = 64 ∧ (schedule mw).take 16 = mw ∧
    ∀ t, 16 ≤ t → t < 64 → (schedule mw).getD t 0 =
      ssig1 ((schedule mw).getD (t - 2) 0) + (schedule mw).getD (t - 7) 0 +
        ssig0 ((schedule mw).getD (t - 15) 0) + (schedule mw).getD (t - 16) 0

/-- 42_sha256_checksum.md R147: compression is 64 rounds, round t with `K[t]` and `W[t]`, each from the values before
the round. -/
def Obligations.CompressionIsSixtyFourRounds : Prop :=
  ∀ (H : Hash8) (W : List Word), W.length = 64 → ∃ v : Nat → Hash8, v 0 = H ∧ compress H W = v 64 ∧
    ∀ t < 64,
      let T1 := (v t).h7 + bsig1 (v t).h4 + ch (v t).h4 (v t).h5 (v t).h6 + roundConstants.getD t 0 + W.getD t 0
      let T2 := bsig0 (v t).h0 + maj (v t).h0 (v t).h1 (v t).h2
      (v (t + 1)).words =
        [T1 + T2, (v t).h0, (v t).h1, (v t).h2, (v t).h3 + T1, (v t).h4, (v t).h5, (v t).h6]

/-- 42_sha256_checksum.md R144, R145, R148, and R152's order and byte form: the hash begins with `H0`, and each of the
message's `floor((L + 8) / 64) + 1` blocks, parsed into its sixteen words, adds its compression word by word; byte 4j + i of
the hash is byte i of word j, the most significant first. -/
def Obligations.HashChainsOverEveryBlock : Prop :=
  ∀ M : Bytes, ∃ (H : Nat → Hash8) (mw : Nat → List Word),
    (H 0).words = [0x6a09e667, 0xbb67ae85, 0x3c6ef372, 0xa54ff53a, 0x510e527f, 0x9b05688c, 0x1f83d9ab, 0x5be0cd19] ∧
    sha256 M = H ((M.length + 8) / 64 + 1) ∧
    (∀ b < (M.length + 8) / 64 + 1, (mw b).length = 16 ∧
      (∀ t < 16, ((mw b).getD t 0).toNat =
        ((shaPad M).getD (64 * b + 4 * t) 0).toNat * 2 ^ 24 + ((shaPad M).getD (64 * b + 4 * t + 1) 0).toNat * 2 ^ 16 +
          ((shaPad M).getD (64 * b + 4 * t + 2) 0).toNat * 2 ^ 8 + ((shaPad M).getD (64 * b + 4 * t + 3) 0).toNat) ∧
      ∀ j < 8, (H (b + 1)).words.getD j 0 =
        (H b).words.getD j 0 + (compress (H b) (schedule (mw b))).words.getD j 0) ∧
    (hashBytes M).length = 32 ∧
    ∀ j < 8, ∀ i < 4, (hashBytes M).getD (4 * j + i) 0 = ((sha256 M).words.getD j 0).extractLsb' (24 - 8 * i) 8

/-- The three known values of 42_sha256_checksum.md R152, each of one block, and from 95_test_vectors.md section 2 the
56-byte text and 64 zero bytes, of two blocks, and 128 zero bytes, of three. -/
def Obligations.HashHasItsKnownValues : Prop :=
  (sha256 []).words = [0xe3b0c442, 0x98fc1c14, 0x9afbf4c8, 0x996fb924, 0x27ae41e4, 0x649b934c, 0xa495991b, 0x7852b855] ∧
  (sha256 [0x61, 0x62, 0x63]).words =
    [0xba7816bf, 0x8f01cfea, 0x414140de, 0x5dae2223, 0xb00361a3, 0x96177a9c, 0xb410ff61, 0xf20015ad] ∧
  (sha256 (List.replicate 32 0)).words =
    [0x66687aad, 0xf862bd77, 0x6c8fc18b, 0x8e9f8e20, 0x08971485, 0x6ee233b3, 0x902a591d, 0x0d5f2925] ∧
  (sha256 ((List.range 14).flatMap fun i => (List.range 4).map fun j => BitVec.ofNat 8 (0x61 + i + j))).words =
    [0x248d6a61, 0xd20638b8, 0xe5c02693, 0x0c3e6039, 0xa33ce459, 0x64ff2167, 0xf6ecedd4, 0x19db06c1] ∧
  (sha256 (List.replicate 64 0)).words =
    [0xf5a5fd42, 0xd16a2030, 0x2798ef6e, 0xd309979b, 0x43003d23, 0x20d9f0e8, 0xea9831a9, 0x2759fb4b] ∧
  (sha256 (List.replicate 128 0)).words =
    [0x38723a2e, 0x5e8a17aa, 0x7950dc00, 0x8209944e, 0x898f69a7, 0xbd10a23c, 0x839d341e, 0x935fd5ca]

/-! ## The word ROM -/

/-- `DERIVE` (43_wordlist_derive.md R181): the refusals of `CSUM`; otherwise the hash part, the 11-bit groups of the
entropy bits followed by the checksum bits, and their ROM words with one `SP` between two. (No legal state holds more
than 1024 bits: 00_scope.md R6, 10_state.md R43; every executed command finds a ROM of 2048 words: R171.) -/
def Obligations.DeriveWritesTheMnemonic : Prop :=
  IssuedAs 0x31000000 .derive ∧ ∀ s : State,
    (∀ c, hashRefusal s = some c → ∃ e, exec .derive s = .next { s with lastErr := .err c, errs := e } ∧
      ∀ d, e.get d = (s.errs.get d || d == c)) ∧
    (hashRefusal s = none → s.ent.length ≤ 1024 → s.params.wordlist.length = 2048 → ∃ I, exec .derive s = .next
        { s with digest := sha256 (bitsToBytes s.ent), csLen := s.ent.length / 32,
                 cs := bitsToInt (leadingHashBits s.ent), csValid := true, idx := I,
                 obuf := List.intercalate [0x20] (I.map fun i => s.params.wordlist.getD i.toNat []),
                 lastErr := .ok } ∧
      I.length = 3 * s.ent.length / 32 ∧
      ∀ k < I.length, ∀ j < 11,
        (I.getD k 0).getLsbD (10 - j) = (s.ent ++ leadingHashBits s.ent).getD (11 * k + j) false)

/-- 43_wordlist_derive.md R182 (5): the derived indices, written as 11 bits each, are the entropy bits followed by the
checksum bits, so the entropy can be read back from the mnemonic's indices. -/
def Obligations.IndicesSpellEntropyAndChecksum : Prop :=
  ∀ s t : State, hashRefusal s = none → s.ent.length ≤ 1024 → exec .derive s = .next t →
    t.idx.flatMap intToBits11 = s.ent ++ leadingHashBits s.ent ∧
    (leadingHashBits s.ent).length = s.ent.length / 32 ∧
    (t.idx.flatMap intToBits11).take s.ent.length = s.ent

/-- 43_wordlist_derive.md R182 (4): with a ROM of 2048 words without `SP`, splitting the mnemonic at `SP` gives the words
of its indices in order; it holds exactly NIDX - 1 of them, and its length is that of its words plus the separators. -/
def Obligations.MnemonicSplitsBackIntoItsWords : Prop :=
  ∀ s t : State, hashRefusal s = none → s.ent.length ≤ 1024 → s.params.wordlist.length = 2048 →
    (∀ w ∈ s.params.wordlist, (0x20 : Byte) ∉ w) → exec .derive s = .next t →
    splitAtByte 0x20 t.obuf = (t.idx.map fun i => s.params.wordlist.getD i.toNat []) ∧
    t.obuf.count 0x20 = t.idx.length - 1 ∧
    t.obuf.length =
      (t.idx.map fun i => (s.params.wordlist.getD i.toNat []).length).sum + (t.idx.length - 1)

/-- `LOOKUP imm11` (43_wordlist_derive.md R176), with the ROM of 2048 words that every command finds (R171). -/
def Obligations.LookupReadsTheRomWord : Prop :=
  ∀ imm11 : BitVec 11, IssuedAs (0x40000000 ||| imm11.setWidth 32) (.lookup imm11) ∧
    ∀ s : State, s.params.wordlist.length = 2048 →
      ∃ w, s.params.wordlist[imm11.toNat]? = some w ∧ exec (.lookup imm11) s = .next { s with obuf := w, lastErr := .ok }

/-- `INSPECT` (44_inspect.md R195), with the ROM of 2048 words that every command finds: the token is consumed; an
overflowed token and a binary literal of more than 11 characters fail; a shorter literal gives its value and the word
there; any other token, lowercased and trimmed, gives the least index holding it, and its 11 binary digits; else it
fails. -/
def Obligations.InspectGivesTheVerdict : Prop :=
  IssuedAs 0x41000000 .inspect ∧ ∀ s : State, s.params.wordlist.length = 2048 →
    let binary := s.tok ≠ [] ∧ ∀ c ∈ s.tok, c = 0x30 ∨ c = 0x31
    let u := trimSpace (toLowerAscii s.tok)
    let failsWith := fun (c : ErrCode) => exec .inspect s = .next
      { s with tok := [], tokOvf := false, insr := { kind := .noResult, index := 0 }, obuf := [],
               lastErr := .err c, errs := s.errs.set c }
    (s.tokOvf = true → failsWith .ovf) ∧
    (s.tokOvf = false → binary → 11 < s.tok.length → failsWith .range) ∧
    (s.tokOvf = false → binary → s.tok.length ≤ 11 → ∃ v w, v.toNat = literalValue s.tok ∧
      s.params.wordlist[v.toNat]? = some w ∧
      exec .inspect s = .next
        { s with tok := [], tokOvf := false, insr := { kind := .binary, index := v }, obuf := w, lastErr := .ok }) ∧
    (s.tokOvf = false → ¬binary → u ∉ s.params.wordlist → failsWith .lookup) ∧
    (s.tokOvf = false → ¬binary → u ∈ s.params.wordlist → ∃ (v : Index) (text : Bytes),
      s.params.wordlist[v.toNat]? = some u ∧ (∀ j < v.toNat, s.params.wordlist[j]? ≠ some u) ∧
      text.length = 11 ∧ (∀ j < 11, text[j]? = some (if v.getLsbD (10 - j) then 0x31 else 0x30)) ∧
      exec .inspect s = .next
        { s with tok := [], tokOvf := false, insr := { kind := .word, index := v }, obuf := text, lastErr := .ok })

/-! ## The pure functions -/

/-- 40_bit_codec.md R108: packing and expanding are inverse on whole bytes, and pad the last byte otherwise. -/
def Obligations.BytesAndBitsRoundTrip : Prop :=
  (∀ B : Bytes, bitsToBytes (bytesToBits B) = B) ∧
  ∀ s : Bits, bytesToBits (bitsToBytes s) = s ++ List.replicate (8 * ((s.length + 7) / 8) - s.length) false

/-- 40_bit_codec.md R100: the bits of the bytes, index by index. -/
def Obligations.BytesToBitsIsMostSignificantFirst : Prop :=
  ∀ B : Bytes, (bytesToBits B).length = 8 * B.length ∧
    ∀ j < B.length, ∀ i < 8, (bytesToBits B)[8 * j + i]? = (B[j]?).map fun b => b.getLsbD (7 - i)

/-- 40_bit_codec.md R102: the big-endian sum, below 2^n. -/
def Obligations.BitsToIntIsTheBigEndianSum : Prop :=
  ∀ g : Bits, bitsToInt g = (∑ i ∈ Finset.range g.length, (g.getD i false).toNat * 2 ^ (g.length - 1 - i)) ∧
    bitsToInt g < 2 ^ g.length

/-- 40_bit_codec.md R103: the 11 bits of an index, the inverse of `bitsToInt` on 11-bit groups, and their digits. -/
def Obligations.IntToBits11InvertsBitsToInt : Prop :=
  (∀ v : Index, (intToBits11 v).length = 11 ∧ (∀ i < 11, (intToBits11 v)[i]? = some (v.getLsbD (10 - i))) ∧
    bitsToInt (intToBits11 v) = v.toNat ∧
    bin11 v = (intToBits11 v).map fun b => if b then 0x31 else 0x30) ∧
  ∀ g : Bits, g.length = 11 → intToBits11 (BitVec.ofNat 11 (bitsToInt g)) = g

/-- 40_bit_codec.md R104. -/
def Obligations.BinaryLiteralIsNonEmptyAllDigits : Prop :=
  ∀ t : Bytes, isBinaryLiteral t = true ↔ 1 ≤ t.length ∧ ∀ c ∈ t, c = 0x30 ∨ c = 0x31

/-- 41_persist_load.md R124: loading a serialized text gives its bits back. -/
def Obligations.LoadFilterInvertsSerializeText : Prop :=
  ∀ s : Bits, loadFilter (serializeText s) = s

/-- 44_inspect.md R191, R192: trimming takes a longest run of white space from both ends and nothing from the middle;
lowercasing maps the 26 letters only; the two commute. -/
def Obligations.TrimAndLowerActAsStated : Prop :=
  (∀ t : Bytes, ∃ front back : Bytes, t = front ++ trimSpace t ++ back ∧
    (∀ b ∈ front ++ back, b ∈ [0x09#8, 0x0A#8, 0x0B#8, 0x0C#8, 0x0D#8, 0x20#8]) ∧
    ∀ b, (trimSpace t).head? = some b ∨ (trimSpace t).getLast? = some b →
      b ∉ [0x09#8, 0x0A#8, 0x0B#8, 0x0C#8, 0x0D#8, 0x20#8]) ∧
  (∀ t : Bytes, toLowerAscii t = t.map fun b => if 0x41 ≤ b.toNat ∧ b.toNat ≤ 0x5A then b + 0x20 else b) ∧
  ∀ t : Bytes, trimSpace (toLowerAscii t) = toLowerAscii (trimSpace t)

/-- 43_wordlist_derive.md R173: the ROM image of a resource written as lines: a leading mark is removed, one trailing
0x0D of a line is removed, empty lines are dropped, the rest stay in order. -/
def Obligations.WordListResourceIsParsedLineByLine : Prop :=
  ∀ lines : List Bytes, lines ≠ [] → (∀ l ∈ lines, (0x0A : Byte) ∉ l) →
    let image := (lines.map fun l => if l.getLast? = some 0x0D then l.dropLast else l).filter fun l => l ≠ []
    parseWordList ([0xEF, 0xBB, 0xBF] ++ List.intercalate [0x0A] lines) = image ∧
    ((List.intercalate [0x0A] lines).take 3 ≠ [0xEF, 0xBB, 0xBF] →
      parseWordList (List.intercalate [0x0A] lines) = image)

/-! ## Sequences of commands -/

/-- 40_bit_codec.md R106 (a) and 41_persist_load.md R125 (a): from an empty entropy buffer, `PUSHB*` leaves the bits of
its bytes and `PUSHT*` the digits of its text, as long as they fit, and no error. -/
def Obligations.PushSequencesLoadTheEntropy : Prop :=
  ∀ s : State, s.cfgErr = false → s.ent = [] → s.entOvf = false → noErrors s →
    (∀ B : Bytes, 8 * B.length ≤ s.params.entMax → ∃ t, runCommands (pushBytes B) s = .next t ∧
      t.ent = bytesToBits B ∧ t.entOvf = false ∧ noErrors t) ∧
    ∀ F : Bytes, (loadFilter F).length ≤ s.params.entMax → ∃ t, runCommands (pushText F) s = .next t ∧
      t.ent = loadFilter F ∧ t.entOvf = false ∧ noErrors t

/-- GP's persist and load (30_encoding.md R80, 41_persist_load.md R124): the text that `CLR`, `PUSHB*`, `SERIAL` leaves in
`OBUF`, sent back through `CLR`, `PUSHT*`, restores the same entropy bits, on any two blocks of the same parameters. -/
def Obligations.PersistedTextLoadsBack : Prop :=
  ∀ (s₁ s₂ : State) (B : Bytes), s₁.cfgErr = false → s₂.cfgErr = false → s₁.params = s₂.params →
    8 * B.length ≤ s₁.params.entMax →
    ∃ t₁ t₂, runCommands (persistEntropy B) s₁ = .next t₁ ∧ t₁.ent = bytesToBits B ∧ noErrors t₁ ∧
      runCommands (loadEntropy t₁.obuf) s₂ = .next t₂ ∧ t₂.ent = t₁.ent ∧ noErrors t₂

/-- 43_wordlist_derive.md R181 (c): derivation is a pure function of the file's binary digits: two files with the same
digits, derived on two blocks with the same parameters from any two states, leave the same block state, errors
included. -/
def Obligations.DerivationDependsOnlyOnTheDigits : Prop :=
  ∀ (s₁ s₂ : State) (F₁ F₂ : Bytes), s₁.cfgErr = false → s₂.cfgErr = false → s₁.params = s₂.params →
    loadFilter F₁ = loadFilter F₂ →
    ∃ t₁ t₂, runCommands (deriveMnemonic F₁) s₁ = .next t₁ ∧ runCommands (deriveMnemonic F₂) s₂ = .next t₂ ∧
      blockOf t₁ = blockOf t₂

/-- 44_inspect.md R196: under the premises R171 and R172 on the ROM, inspecting the word at index i reports i and its 11
digits, and inspecting any binary literal of value i, of 1 to 11 digits, reports i and the word. -/
def Obligations.InspectionRoundTrips : Prop :=
  ∀ (s : State) (i : Index), s.params.valid = true → RomPremises s.params → s.cfgErr = false → s.tok = [] →
    s.tokOvf = false →
    (∃ t, runCommands (inspectToken (s.params.wordlist.getD i.toNat [])) s = .next t ∧
      t.insr = { kind := .word, index := i } ∧ t.obuf = bin11 i ∧ t.lastErr = .ok ∧ t.errs = s.errs) ∧
    ∀ l : Bytes, 1 ≤ l.length → l.length ≤ 11 → (∀ c ∈ l, c = 0x30 ∨ c = 0x31) → literalValue l = i.toNat →
      ∃ t, runCommands (inspectToken l) s = .next t ∧
        t.insr = { kind := .binary, index := i } ∧ t.obuf = s.params.wordlist.getD i.toNat [] ∧ t.lastErr = .ok ∧
        t.errs = s.errs
end

