-- ==== Sys2Proof/Laws/Codec.lean ====
section
/-! SUPPORT. The small lemmas of the bit codec and of token inspection's functions. -/

namespace Sys2Proof.Machine

open Sys2Proof

@[simp] theorem byteBits_length (b : Byte) : (byteBits b).length = 8 := by simp [byteBits]

@[simp] theorem bytesToBits_nil : bytesToBits [] = [] := rfl

@[simp] theorem bytesToBits_cons (b : Byte) (B : Bytes) : bytesToBits (b :: B) = byteBits b ++ bytesToBits B := rfl

theorem bytesToBits_append (A B : Bytes) : bytesToBits (A ++ B) = bytesToBits A ++ bytesToBits B := by
  simp [bytesToBits]

@[simp] theorem bytesToBits_length (B : Bytes) : (bytesToBits B).length = 8 * B.length := by
  induction B with
  | nil => rfl
  | cons b B ih => simp [ih]; omega

@[simp] theorem bitsToInt_nil : bitsToInt [] = 0 := rfl

theorem bitsToInt_cons (b : Bool) (g : Bits) : bitsToInt (b :: g) = b.toNat * 2 ^ g.length + bitsToInt g := rfl

theorem bitsToInt_append (g h : Bits) : bitsToInt (g ++ h) = bitsToInt g * 2 ^ h.length + bitsToInt h := by
  induction g with
  | nil => simp
  | cons b g ih => simp [bitsToInt_cons, ih, pow_add]; ring

@[simp] theorem bitsToBytes_length (s : Bits) : (bitsToBytes s).length = (s.length + 7) / 8 := by simp [bitsToBytes]

@[simp] theorem intToBits11_length (v : Index) : (intToBits11 v).length = 11 := by simp [intToBits11, Config.idxW]

@[simp] theorem bin11_length (v : Index) : (bin11 v).length = 11 := by simp [bin11]

@[simp] theorem charBit_digitChar (b : Bool) : charBit (digitChar b) = some b := by cases b <;> decide

@[simp] theorem charBit_chrSP : charBit chrSP = none := by decide

@[simp] theorem charBit_chrLF : charBit chrLF = none := by decide

theorem charBit_eq_none_iff (c : Byte) : charBit c = none ↔ c ≠ chr0 ∧ c ≠ chr1 := by
  unfold charBit
  split <;> simp_all

theorem charBit_eq_some_iff (c : Byte) (b : Bool) : charBit c = some b ↔ c = digitChar b := by
  have h01 : chr0 ≠ chr1 := by decide
  by_cases h0 : c = chr0
  · subst h0; cases b <;> simp [charBit, digitChar, h01]
  · by_cases h1 : c = chr1
    · subst h1; cases b <;> simp [charBit, digitChar, h0]
    · cases b <;> simp [charBit, digitChar, h0, h1]

@[simp] theorem toLowerAscii_length (t : Bytes) : (toLowerAscii t).length = t.length := by simp [toLowerAscii]

end Sys2Proof.Machine
end

