-- ==== Sys2Proof/Laws/Encoding.lean ====
section
/-! SUPPORT. The decoder as a chain of cases, and the well-formedness of every value of `Instr`. -/

namespace Sys2Proof

/-- Every value of `Instr` is well-formed: its immediates' types are exactly the ranges of 30_encoding.md R75. -/
theorem Instr.wellFormed_true (i : Instr) : i.wellFormed = true := by
  cases i <;> simp [Instr.wellFormed, Instr.source, Source.wellFormed, formatOfMnemonic, Instr.mnemonic,
    Instr.immediate, Format.admits] <;> exact BitVec.isLt _

@[simp] theorem acceptFormat_ok_iff (f : Format) (w : Word) (i j : Instr) :
    acceptFormat f w i = .ok j ↔ reservedZero f w = true ∧ i = j := by
  unfold acceptFormat
  split <;> simp_all

end Sys2Proof
end

