-- ==== Sys2Proof/Laws/State.lean ====
section
/-! SUPPORT. One lemma per field per update of State, each true by `rfl`, so that no proof unfolds a record update. -/

namespace Sys2Proof.Machine

open Sys2Proof

/-! ### `State.ok` -/

@[simp] theorem State.ok_params (s : State) : (s.ok).params = s.params := rfl
@[simp] theorem State.ok_ent (s : State) : (s.ok).ent = s.ent := rfl
@[simp] theorem State.ok_entOvf (s : State) : (s.ok).entOvf = s.entOvf := rfl
@[simp] theorem State.ok_tok (s : State) : (s.ok).tok = s.tok := rfl
@[simp] theorem State.ok_tokOvf (s : State) : (s.ok).tokOvf = s.tokOvf := rfl
@[simp] theorem State.ok_digest (s : State) : (s.ok).digest = s.digest := rfl
@[simp] theorem State.ok_cs (s : State) : (s.ok).cs = s.cs := rfl
@[simp] theorem State.ok_csLen (s : State) : (s.ok).csLen = s.csLen := rfl
@[simp] theorem State.ok_csValid (s : State) : (s.ok).csValid = s.csValid := rfl
@[simp] theorem State.ok_idx (s : State) : (s.ok).idx = s.idx := rfl
@[simp] theorem State.ok_obuf (s : State) : (s.ok).obuf = s.obuf := rfl
@[simp] theorem State.ok_insr (s : State) : (s.ok).insr = s.insr := rfl
@[simp] theorem State.ok_lastErr (s : State) : (s.ok).lastErr = .ok := rfl
@[simp] theorem State.ok_errs (s : State) : (s.ok).errs = s.errs := rfl
@[simp] theorem State.ok_cfgErr (s : State) : (s.ok).cfgErr = s.cfgErr := rfl
@[simp] theorem State.ok_host (s : State) : (s.ok).host = s.host := rfl
@[simp] theorem State.ok_received (s : State) : (s.ok).received = s.received := rfl

/-! ### `State.fail` -/

@[simp] theorem State.fail_params (c : ErrCode) (s : State) : (s.fail c).params = s.params := rfl
@[simp] theorem State.fail_ent (c : ErrCode) (s : State) : (s.fail c).ent = s.ent := rfl
@[simp] theorem State.fail_entOvf (c : ErrCode) (s : State) : (s.fail c).entOvf = s.entOvf := rfl
@[simp] theorem State.fail_tok (c : ErrCode) (s : State) : (s.fail c).tok = s.tok := rfl
@[simp] theorem State.fail_tokOvf (c : ErrCode) (s : State) : (s.fail c).tokOvf = s.tokOvf := rfl
@[simp] theorem State.fail_digest (c : ErrCode) (s : State) : (s.fail c).digest = s.digest := rfl
@[simp] theorem State.fail_cs (c : ErrCode) (s : State) : (s.fail c).cs = s.cs := rfl
@[simp] theorem State.fail_csLen (c : ErrCode) (s : State) : (s.fail c).csLen = s.csLen := rfl
@[simp] theorem State.fail_csValid (c : ErrCode) (s : State) : (s.fail c).csValid = s.csValid := rfl
@[simp] theorem State.fail_idx (c : ErrCode) (s : State) : (s.fail c).idx = s.idx := rfl
@[simp] theorem State.fail_obuf (c : ErrCode) (s : State) : (s.fail c).obuf = s.obuf := rfl
@[simp] theorem State.fail_insr (c : ErrCode) (s : State) : (s.fail c).insr = s.insr := rfl
@[simp] theorem State.fail_lastErr (c : ErrCode) (s : State) : (s.fail c).lastErr = .err c := rfl
@[simp] theorem State.fail_errs (c : ErrCode) (s : State) : (s.fail c).errs = s.errs.set c := rfl
@[simp] theorem State.fail_cfgErr (c : ErrCode) (s : State) : (s.fail c).cfgErr = s.cfgErr := rfl
@[simp] theorem State.fail_host (c : ErrCode) (s : State) : (s.fail c).host = s.host := rfl
@[simp] theorem State.fail_received (c : ErrCode) (s : State) : (s.fail c).received = s.received := rfl

/-! ### `State.appendEnt` -/

@[simp] theorem State.appendEnt_params (bits : Bits) (s : State) : (s.appendEnt bits).params = s.params := rfl
@[simp] theorem State.appendEnt_ent (bits : Bits) (s : State) : (s.appendEnt bits).ent = s.ent ++ bits := rfl
@[simp] theorem State.appendEnt_entOvf (bits : Bits) (s : State) : (s.appendEnt bits).entOvf = s.entOvf := rfl
@[simp] theorem State.appendEnt_tok (bits : Bits) (s : State) : (s.appendEnt bits).tok = s.tok := rfl
@[simp] theorem State.appendEnt_tokOvf (bits : Bits) (s : State) : (s.appendEnt bits).tokOvf = s.tokOvf := rfl
@[simp] theorem State.appendEnt_digest (bits : Bits) (s : State) : (s.appendEnt bits).digest = s.digest := rfl
@[simp] theorem State.appendEnt_cs (bits : Bits) (s : State) : (s.appendEnt bits).cs = s.cs := rfl
@[simp] theorem State.appendEnt_csLen (bits : Bits) (s : State) : (s.appendEnt bits).csLen = s.csLen := rfl
@[simp] theorem State.appendEnt_csValid (bits : Bits) (s : State) : (s.appendEnt bits).csValid = (s.csValid && bits.isEmpty) := rfl
@[simp] theorem State.appendEnt_idx (bits : Bits) (s : State) : (s.appendEnt bits).idx = s.idx := rfl
@[simp] theorem State.appendEnt_obuf (bits : Bits) (s : State) : (s.appendEnt bits).obuf = s.obuf := rfl
@[simp] theorem State.appendEnt_insr (bits : Bits) (s : State) : (s.appendEnt bits).insr = s.insr := rfl
@[simp] theorem State.appendEnt_lastErr (bits : Bits) (s : State) : (s.appendEnt bits).lastErr = s.lastErr := rfl
@[simp] theorem State.appendEnt_errs (bits : Bits) (s : State) : (s.appendEnt bits).errs = s.errs := rfl
@[simp] theorem State.appendEnt_cfgErr (bits : Bits) (s : State) : (s.appendEnt bits).cfgErr = s.cfgErr := rfl
@[simp] theorem State.appendEnt_host (bits : Bits) (s : State) : (s.appendEnt bits).host = s.host := rfl
@[simp] theorem State.appendEnt_received (bits : Bits) (s : State) : (s.appendEnt bits).received = s.received := rfl

/-! ### `State.setEntOvf` -/

@[simp] theorem State.setEntOvf_params (s : State) : (s.setEntOvf).params = s.params := rfl
@[simp] theorem State.setEntOvf_ent (s : State) : (s.setEntOvf).ent = s.ent := rfl
@[simp] theorem State.setEntOvf_entOvf (s : State) : (s.setEntOvf).entOvf = true := rfl
@[simp] theorem State.setEntOvf_tok (s : State) : (s.setEntOvf).tok = s.tok := rfl
@[simp] theorem State.setEntOvf_tokOvf (s : State) : (s.setEntOvf).tokOvf = s.tokOvf := rfl
@[simp] theorem State.setEntOvf_digest (s : State) : (s.setEntOvf).digest = s.digest := rfl
@[simp] theorem State.setEntOvf_cs (s : State) : (s.setEntOvf).cs = s.cs := rfl
@[simp] theorem State.setEntOvf_csLen (s : State) : (s.setEntOvf).csLen = s.csLen := rfl
@[simp] theorem State.setEntOvf_csValid (s : State) : (s.setEntOvf).csValid = s.csValid := rfl
@[simp] theorem State.setEntOvf_idx (s : State) : (s.setEntOvf).idx = s.idx := rfl
@[simp] theorem State.setEntOvf_obuf (s : State) : (s.setEntOvf).obuf = s.obuf := rfl
@[simp] theorem State.setEntOvf_insr (s : State) : (s.setEntOvf).insr = s.insr := rfl
@[simp] theorem State.setEntOvf_lastErr (s : State) : (s.setEntOvf).lastErr = s.lastErr := rfl
@[simp] theorem State.setEntOvf_errs (s : State) : (s.setEntOvf).errs = s.errs := rfl
@[simp] theorem State.setEntOvf_cfgErr (s : State) : (s.setEntOvf).cfgErr = s.cfgErr := rfl
@[simp] theorem State.setEntOvf_host (s : State) : (s.setEntOvf).host = s.host := rfl
@[simp] theorem State.setEntOvf_received (s : State) : (s.setEntOvf).received = s.received := rfl

/-! ### `State.appendTok` -/

@[simp] theorem State.appendTok_params (b : Byte) (s : State) : (s.appendTok b).params = s.params := rfl
@[simp] theorem State.appendTok_ent (b : Byte) (s : State) : (s.appendTok b).ent = s.ent := rfl
@[simp] theorem State.appendTok_entOvf (b : Byte) (s : State) : (s.appendTok b).entOvf = s.entOvf := rfl
@[simp] theorem State.appendTok_tok (b : Byte) (s : State) : (s.appendTok b).tok = s.tok ++ [b] := rfl
@[simp] theorem State.appendTok_tokOvf (b : Byte) (s : State) : (s.appendTok b).tokOvf = s.tokOvf := rfl
@[simp] theorem State.appendTok_digest (b : Byte) (s : State) : (s.appendTok b).digest = s.digest := rfl
@[simp] theorem State.appendTok_cs (b : Byte) (s : State) : (s.appendTok b).cs = s.cs := rfl
@[simp] theorem State.appendTok_csLen (b : Byte) (s : State) : (s.appendTok b).csLen = s.csLen := rfl
@[simp] theorem State.appendTok_csValid (b : Byte) (s : State) : (s.appendTok b).csValid = s.csValid := rfl
@[simp] theorem State.appendTok_idx (b : Byte) (s : State) : (s.appendTok b).idx = s.idx := rfl
@[simp] theorem State.appendTok_obuf (b : Byte) (s : State) : (s.appendTok b).obuf = s.obuf := rfl
@[simp] theorem State.appendTok_insr (b : Byte) (s : State) : (s.appendTok b).insr = s.insr := rfl
@[simp] theorem State.appendTok_lastErr (b : Byte) (s : State) : (s.appendTok b).lastErr = s.lastErr := rfl
@[simp] theorem State.appendTok_errs (b : Byte) (s : State) : (s.appendTok b).errs = s.errs := rfl
@[simp] theorem State.appendTok_cfgErr (b : Byte) (s : State) : (s.appendTok b).cfgErr = s.cfgErr := rfl
@[simp] theorem State.appendTok_host (b : Byte) (s : State) : (s.appendTok b).host = s.host := rfl
@[simp] theorem State.appendTok_received (b : Byte) (s : State) : (s.appendTok b).received = s.received := rfl

/-! ### `State.setTokOvf` -/

@[simp] theorem State.setTokOvf_params (s : State) : (s.setTokOvf).params = s.params := rfl
@[simp] theorem State.setTokOvf_ent (s : State) : (s.setTokOvf).ent = s.ent := rfl
@[simp] theorem State.setTokOvf_entOvf (s : State) : (s.setTokOvf).entOvf = s.entOvf := rfl
@[simp] theorem State.setTokOvf_tok (s : State) : (s.setTokOvf).tok = s.tok := rfl
@[simp] theorem State.setTokOvf_tokOvf (s : State) : (s.setTokOvf).tokOvf = true := rfl
@[simp] theorem State.setTokOvf_digest (s : State) : (s.setTokOvf).digest = s.digest := rfl
@[simp] theorem State.setTokOvf_cs (s : State) : (s.setTokOvf).cs = s.cs := rfl
@[simp] theorem State.setTokOvf_csLen (s : State) : (s.setTokOvf).csLen = s.csLen := rfl
@[simp] theorem State.setTokOvf_csValid (s : State) : (s.setTokOvf).csValid = s.csValid := rfl
@[simp] theorem State.setTokOvf_idx (s : State) : (s.setTokOvf).idx = s.idx := rfl
@[simp] theorem State.setTokOvf_obuf (s : State) : (s.setTokOvf).obuf = s.obuf := rfl
@[simp] theorem State.setTokOvf_insr (s : State) : (s.setTokOvf).insr = s.insr := rfl
@[simp] theorem State.setTokOvf_lastErr (s : State) : (s.setTokOvf).lastErr = s.lastErr := rfl
@[simp] theorem State.setTokOvf_errs (s : State) : (s.setTokOvf).errs = s.errs := rfl
@[simp] theorem State.setTokOvf_cfgErr (s : State) : (s.setTokOvf).cfgErr = s.cfgErr := rfl
@[simp] theorem State.setTokOvf_host (s : State) : (s.setTokOvf).host = s.host := rfl
@[simp] theorem State.setTokOvf_received (s : State) : (s.setTokOvf).received = s.received := rfl

/-! ### `State.writeObuf` -/

@[simp] theorem State.writeObuf_params (bs : Bytes) (s : State) : (s.writeObuf bs).params = s.params := rfl
@[simp] theorem State.writeObuf_ent (bs : Bytes) (s : State) : (s.writeObuf bs).ent = s.ent := rfl
@[simp] theorem State.writeObuf_entOvf (bs : Bytes) (s : State) : (s.writeObuf bs).entOvf = s.entOvf := rfl
@[simp] theorem State.writeObuf_tok (bs : Bytes) (s : State) : (s.writeObuf bs).tok = s.tok := rfl
@[simp] theorem State.writeObuf_tokOvf (bs : Bytes) (s : State) : (s.writeObuf bs).tokOvf = s.tokOvf := rfl
@[simp] theorem State.writeObuf_digest (bs : Bytes) (s : State) : (s.writeObuf bs).digest = s.digest := rfl
@[simp] theorem State.writeObuf_cs (bs : Bytes) (s : State) : (s.writeObuf bs).cs = s.cs := rfl
@[simp] theorem State.writeObuf_csLen (bs : Bytes) (s : State) : (s.writeObuf bs).csLen = s.csLen := rfl
@[simp] theorem State.writeObuf_csValid (bs : Bytes) (s : State) : (s.writeObuf bs).csValid = s.csValid := rfl
@[simp] theorem State.writeObuf_idx (bs : Bytes) (s : State) : (s.writeObuf bs).idx = s.idx := rfl
@[simp] theorem State.writeObuf_obuf (bs : Bytes) (s : State) : (s.writeObuf bs).obuf = bs := rfl
@[simp] theorem State.writeObuf_insr (bs : Bytes) (s : State) : (s.writeObuf bs).insr = s.insr := rfl
@[simp] theorem State.writeObuf_lastErr (bs : Bytes) (s : State) : (s.writeObuf bs).lastErr = s.lastErr := rfl
@[simp] theorem State.writeObuf_errs (bs : Bytes) (s : State) : (s.writeObuf bs).errs = s.errs := rfl
@[simp] theorem State.writeObuf_cfgErr (bs : Bytes) (s : State) : (s.writeObuf bs).cfgErr = s.cfgErr := rfl
@[simp] theorem State.writeObuf_host (bs : Bytes) (s : State) : (s.writeObuf bs).host = s.host := rfl
@[simp] theorem State.writeObuf_received (bs : Bytes) (s : State) : (s.writeObuf bs).received = s.received := rfl

/-! ### `State.writeIdx` -/

@[simp] theorem State.writeIdx_params (I : List Index) (s : State) : (s.writeIdx I).params = s.params := rfl
@[simp] theorem State.writeIdx_ent (I : List Index) (s : State) : (s.writeIdx I).ent = s.ent := rfl
@[simp] theorem State.writeIdx_entOvf (I : List Index) (s : State) : (s.writeIdx I).entOvf = s.entOvf := rfl
@[simp] theorem State.writeIdx_tok (I : List Index) (s : State) : (s.writeIdx I).tok = s.tok := rfl
@[simp] theorem State.writeIdx_tokOvf (I : List Index) (s : State) : (s.writeIdx I).tokOvf = s.tokOvf := rfl
@[simp] theorem State.writeIdx_digest (I : List Index) (s : State) : (s.writeIdx I).digest = s.digest := rfl
@[simp] theorem State.writeIdx_cs (I : List Index) (s : State) : (s.writeIdx I).cs = s.cs := rfl
@[simp] theorem State.writeIdx_csLen (I : List Index) (s : State) : (s.writeIdx I).csLen = s.csLen := rfl
@[simp] theorem State.writeIdx_csValid (I : List Index) (s : State) : (s.writeIdx I).csValid = s.csValid := rfl
@[simp] theorem State.writeIdx_idx (I : List Index) (s : State) : (s.writeIdx I).idx = I := rfl
@[simp] theorem State.writeIdx_obuf (I : List Index) (s : State) : (s.writeIdx I).obuf = s.obuf := rfl
@[simp] theorem State.writeIdx_insr (I : List Index) (s : State) : (s.writeIdx I).insr = s.insr := rfl
@[simp] theorem State.writeIdx_lastErr (I : List Index) (s : State) : (s.writeIdx I).lastErr = s.lastErr := rfl
@[simp] theorem State.writeIdx_errs (I : List Index) (s : State) : (s.writeIdx I).errs = s.errs := rfl
@[simp] theorem State.writeIdx_cfgErr (I : List Index) (s : State) : (s.writeIdx I).cfgErr = s.cfgErr := rfl
@[simp] theorem State.writeIdx_host (I : List Index) (s : State) : (s.writeIdx I).host = s.host := rfl
@[simp] theorem State.writeIdx_received (I : List Index) (s : State) : (s.writeIdx I).received = s.received := rfl

/-! ### `State.writeHash` -/

@[simp] theorem State.writeHash_params (s : State) : (s.writeHash).params = s.params := rfl
@[simp] theorem State.writeHash_ent (s : State) : (s.writeHash).ent = s.ent := rfl
@[simp] theorem State.writeHash_entOvf (s : State) : (s.writeHash).entOvf = s.entOvf := rfl
@[simp] theorem State.writeHash_tok (s : State) : (s.writeHash).tok = s.tok := rfl
@[simp] theorem State.writeHash_tokOvf (s : State) : (s.writeHash).tokOvf = s.tokOvf := rfl
@[simp] theorem State.writeHash_digest (s : State) : (s.writeHash).digest = sha256 (bitsToBytes s.ent) := rfl
@[simp] theorem State.writeHash_cs (s : State) : (s.writeHash).cs = bitsToInt (checksumBits s.ent) := rfl
@[simp] theorem State.writeHash_csLen (s : State) : (s.writeHash).csLen = s.ent.length / 32 := rfl
@[simp] theorem State.writeHash_csValid (s : State) : (s.writeHash).csValid = true := rfl
@[simp] theorem State.writeHash_idx (s : State) : (s.writeHash).idx = s.idx := rfl
@[simp] theorem State.writeHash_obuf (s : State) : (s.writeHash).obuf = s.obuf := rfl
@[simp] theorem State.writeHash_insr (s : State) : (s.writeHash).insr = s.insr := rfl
@[simp] theorem State.writeHash_lastErr (s : State) : (s.writeHash).lastErr = s.lastErr := rfl
@[simp] theorem State.writeHash_errs (s : State) : (s.writeHash).errs = s.errs := rfl
@[simp] theorem State.writeHash_cfgErr (s : State) : (s.writeHash).cfgErr = s.cfgErr := rfl
@[simp] theorem State.writeHash_host (s : State) : (s.writeHash).host = s.host := rfl
@[simp] theorem State.writeHash_received (s : State) : (s.writeHash).received = s.received := rfl

/-! ### `State.consumeTok` -/

@[simp] theorem State.consumeTok_params (s : State) : (s.consumeTok).params = s.params := rfl
@[simp] theorem State.consumeTok_ent (s : State) : (s.consumeTok).ent = s.ent := rfl
@[simp] theorem State.consumeTok_entOvf (s : State) : (s.consumeTok).entOvf = s.entOvf := rfl
@[simp] theorem State.consumeTok_tok (s : State) : (s.consumeTok).tok = [] := rfl
@[simp] theorem State.consumeTok_tokOvf (s : State) : (s.consumeTok).tokOvf = false := rfl
@[simp] theorem State.consumeTok_digest (s : State) : (s.consumeTok).digest = s.digest := rfl
@[simp] theorem State.consumeTok_cs (s : State) : (s.consumeTok).cs = s.cs := rfl
@[simp] theorem State.consumeTok_csLen (s : State) : (s.consumeTok).csLen = s.csLen := rfl
@[simp] theorem State.consumeTok_csValid (s : State) : (s.consumeTok).csValid = s.csValid := rfl
@[simp] theorem State.consumeTok_idx (s : State) : (s.consumeTok).idx = s.idx := rfl
@[simp] theorem State.consumeTok_obuf (s : State) : (s.consumeTok).obuf = s.obuf := rfl
@[simp] theorem State.consumeTok_insr (s : State) : (s.consumeTok).insr = s.insr := rfl
@[simp] theorem State.consumeTok_lastErr (s : State) : (s.consumeTok).lastErr = s.lastErr := rfl
@[simp] theorem State.consumeTok_errs (s : State) : (s.consumeTok).errs = s.errs := rfl
@[simp] theorem State.consumeTok_cfgErr (s : State) : (s.consumeTok).cfgErr = s.cfgErr := rfl
@[simp] theorem State.consumeTok_host (s : State) : (s.consumeTok).host = s.host := rfl
@[simp] theorem State.consumeTok_received (s : State) : (s.consumeTok).received = s.received := rfl

/-! ### `State.inspectFail` -/

@[simp] theorem State.inspectFail_params (c : ErrCode) (s : State) : (s.inspectFail c).params = s.params := rfl
@[simp] theorem State.inspectFail_ent (c : ErrCode) (s : State) : (s.inspectFail c).ent = s.ent := rfl
@[simp] theorem State.inspectFail_entOvf (c : ErrCode) (s : State) : (s.inspectFail c).entOvf = s.entOvf := rfl
@[simp] theorem State.inspectFail_tok (c : ErrCode) (s : State) : (s.inspectFail c).tok = s.tok := rfl
@[simp] theorem State.inspectFail_tokOvf (c : ErrCode) (s : State) : (s.inspectFail c).tokOvf = s.tokOvf := rfl
@[simp] theorem State.inspectFail_digest (c : ErrCode) (s : State) : (s.inspectFail c).digest = s.digest := rfl
@[simp] theorem State.inspectFail_cs (c : ErrCode) (s : State) : (s.inspectFail c).cs = s.cs := rfl
@[simp] theorem State.inspectFail_csLen (c : ErrCode) (s : State) : (s.inspectFail c).csLen = s.csLen := rfl
@[simp] theorem State.inspectFail_csValid (c : ErrCode) (s : State) : (s.inspectFail c).csValid = s.csValid := rfl
@[simp] theorem State.inspectFail_idx (c : ErrCode) (s : State) : (s.inspectFail c).idx = s.idx := rfl
@[simp] theorem State.inspectFail_obuf (c : ErrCode) (s : State) : (s.inspectFail c).obuf = [] := rfl
@[simp] theorem State.inspectFail_insr (c : ErrCode) (s : State) : (s.inspectFail c).insr = Insr.clear := rfl
@[simp] theorem State.inspectFail_lastErr (c : ErrCode) (s : State) : (s.inspectFail c).lastErr = .err c := rfl
@[simp] theorem State.inspectFail_errs (c : ErrCode) (s : State) : (s.inspectFail c).errs = s.errs.set c := rfl
@[simp] theorem State.inspectFail_cfgErr (c : ErrCode) (s : State) : (s.inspectFail c).cfgErr = s.cfgErr := rfl
@[simp] theorem State.inspectFail_host (c : ErrCode) (s : State) : (s.inspectFail c).host = s.host := rfl
@[simp] theorem State.inspectFail_received (c : ErrCode) (s : State) : (s.inspectFail c).received = s.received := rfl

/-! ### `State.inspectHit` -/

@[simp] theorem State.inspectHit_params (k : InspectKind) (i : Index) (text : Bytes) (s : State) : (s.inspectHit k i text).params = s.params := rfl
@[simp] theorem State.inspectHit_ent (k : InspectKind) (i : Index) (text : Bytes) (s : State) : (s.inspectHit k i text).ent = s.ent := rfl
@[simp] theorem State.inspectHit_entOvf (k : InspectKind) (i : Index) (text : Bytes) (s : State) : (s.inspectHit k i text).entOvf = s.entOvf := rfl
@[simp] theorem State.inspectHit_tok (k : InspectKind) (i : Index) (text : Bytes) (s : State) : (s.inspectHit k i text).tok = s.tok := rfl
@[simp] theorem State.inspectHit_tokOvf (k : InspectKind) (i : Index) (text : Bytes) (s : State) : (s.inspectHit k i text).tokOvf = s.tokOvf := rfl
@[simp] theorem State.inspectHit_digest (k : InspectKind) (i : Index) (text : Bytes) (s : State) : (s.inspectHit k i text).digest = s.digest := rfl
@[simp] theorem State.inspectHit_cs (k : InspectKind) (i : Index) (text : Bytes) (s : State) : (s.inspectHit k i text).cs = s.cs := rfl
@[simp] theorem State.inspectHit_csLen (k : InspectKind) (i : Index) (text : Bytes) (s : State) : (s.inspectHit k i text).csLen = s.csLen := rfl
@[simp] theorem State.inspectHit_csValid (k : InspectKind) (i : Index) (text : Bytes) (s : State) : (s.inspectHit k i text).csValid = s.csValid := rfl
@[simp] theorem State.inspectHit_idx (k : InspectKind) (i : Index) (text : Bytes) (s : State) : (s.inspectHit k i text).idx = s.idx := rfl
@[simp] theorem State.inspectHit_obuf (k : InspectKind) (i : Index) (text : Bytes) (s : State) : (s.inspectHit k i text).obuf = text := rfl
@[simp] theorem State.inspectHit_insr (k : InspectKind) (i : Index) (text : Bytes) (s : State) : (s.inspectHit k i text).insr = { kind := k, index := i } := rfl
@[simp] theorem State.inspectHit_lastErr (k : InspectKind) (i : Index) (text : Bytes) (s : State) : (s.inspectHit k i text).lastErr = .ok := rfl
@[simp] theorem State.inspectHit_errs (k : InspectKind) (i : Index) (text : Bytes) (s : State) : (s.inspectHit k i text).errs = s.errs := rfl
@[simp] theorem State.inspectHit_cfgErr (k : InspectKind) (i : Index) (text : Bytes) (s : State) : (s.inspectHit k i text).cfgErr = s.cfgErr := rfl
@[simp] theorem State.inspectHit_host (k : InspectKind) (i : Index) (text : Bytes) (s : State) : (s.inspectHit k i text).host = s.host := rfl
@[simp] theorem State.inspectHit_received (k : InspectKind) (i : Index) (text : Bytes) (s : State) : (s.inspectHit k i text).received = s.received := rfl

/-! ### `State.clearAll` -/

@[simp] theorem State.clearAll_params (s : State) : (s.clearAll).params = s.params := rfl
@[simp] theorem State.clearAll_ent (s : State) : (s.clearAll).ent = [] := rfl
@[simp] theorem State.clearAll_entOvf (s : State) : (s.clearAll).entOvf = false := rfl
@[simp] theorem State.clearAll_tok (s : State) : (s.clearAll).tok = [] := rfl
@[simp] theorem State.clearAll_tokOvf (s : State) : (s.clearAll).tokOvf = false := rfl
@[simp] theorem State.clearAll_digest (s : State) : (s.clearAll).digest = Hash8.zero := rfl
@[simp] theorem State.clearAll_cs (s : State) : (s.clearAll).cs = 0 := rfl
@[simp] theorem State.clearAll_csLen (s : State) : (s.clearAll).csLen = 0 := rfl
@[simp] theorem State.clearAll_csValid (s : State) : (s.clearAll).csValid = false := rfl
@[simp] theorem State.clearAll_idx (s : State) : (s.clearAll).idx = [] := rfl
@[simp] theorem State.clearAll_obuf (s : State) : (s.clearAll).obuf = [] := rfl
@[simp] theorem State.clearAll_insr (s : State) : (s.clearAll).insr = Insr.clear := rfl
@[simp] theorem State.clearAll_lastErr (s : State) : (s.clearAll).lastErr = s.lastErr := rfl
@[simp] theorem State.clearAll_errs (s : State) : (s.clearAll).errs = Errs.clear := rfl
@[simp] theorem State.clearAll_cfgErr (s : State) : (s.clearAll).cfgErr = s.cfgErr := rfl
@[simp] theorem State.clearAll_host (s : State) : (s.clearAll).host = s.host := rfl
@[simp] theorem State.clearAll_received (s : State) : (s.clearAll).received = s.received := rfl

/-! ### `State.receive` -/

@[simp] theorem State.receive_params (n : RegNum) (s : State) : (s.receive n).params = s.params := rfl
@[simp] theorem State.receive_ent (n : RegNum) (s : State) : (s.receive n).ent = s.ent := rfl
@[simp] theorem State.receive_entOvf (n : RegNum) (s : State) : (s.receive n).entOvf = s.entOvf := rfl
@[simp] theorem State.receive_tok (n : RegNum) (s : State) : (s.receive n).tok = s.tok := rfl
@[simp] theorem State.receive_tokOvf (n : RegNum) (s : State) : (s.receive n).tokOvf = s.tokOvf := rfl
@[simp] theorem State.receive_digest (n : RegNum) (s : State) : (s.receive n).digest = s.digest := rfl
@[simp] theorem State.receive_cs (n : RegNum) (s : State) : (s.receive n).cs = s.cs := rfl
@[simp] theorem State.receive_csLen (n : RegNum) (s : State) : (s.receive n).csLen = s.csLen := rfl
@[simp] theorem State.receive_csValid (n : RegNum) (s : State) : (s.receive n).csValid = s.csValid := rfl
@[simp] theorem State.receive_idx (n : RegNum) (s : State) : (s.receive n).idx = s.idx := rfl
@[simp] theorem State.receive_obuf (n : RegNum) (s : State) : (s.receive n).obuf = s.obuf := rfl
@[simp] theorem State.receive_insr (n : RegNum) (s : State) : (s.receive n).insr = s.insr := rfl
@[simp] theorem State.receive_lastErr (n : RegNum) (s : State) : (s.receive n).lastErr = s.lastErr := rfl
@[simp] theorem State.receive_errs (n : RegNum) (s : State) : (s.receive n).errs = s.errs := rfl
@[simp] theorem State.receive_cfgErr (n : RegNum) (s : State) : (s.receive n).cfgErr = s.cfgErr := rfl
@[simp] theorem State.receive_host (n : RegNum) (s : State) : (s.receive n).host = s.host := rfl
@[simp] theorem State.receive_received (n : RegNum) (s : State) : (s.receive n).received = regRead s n :: s.received := rfl

/-! ### `State.withHost` -/

@[simp] theorem State.withHost_params (h : List HostAccess) (s : State) : (s.withHost h).params = s.params := rfl
@[simp] theorem State.withHost_ent (h : List HostAccess) (s : State) : (s.withHost h).ent = s.ent := rfl
@[simp] theorem State.withHost_entOvf (h : List HostAccess) (s : State) : (s.withHost h).entOvf = s.entOvf := rfl
@[simp] theorem State.withHost_tok (h : List HostAccess) (s : State) : (s.withHost h).tok = s.tok := rfl
@[simp] theorem State.withHost_tokOvf (h : List HostAccess) (s : State) : (s.withHost h).tokOvf = s.tokOvf := rfl
@[simp] theorem State.withHost_digest (h : List HostAccess) (s : State) : (s.withHost h).digest = s.digest := rfl
@[simp] theorem State.withHost_cs (h : List HostAccess) (s : State) : (s.withHost h).cs = s.cs := rfl
@[simp] theorem State.withHost_csLen (h : List HostAccess) (s : State) : (s.withHost h).csLen = s.csLen := rfl
@[simp] theorem State.withHost_csValid (h : List HostAccess) (s : State) : (s.withHost h).csValid = s.csValid := rfl
@[simp] theorem State.withHost_idx (h : List HostAccess) (s : State) : (s.withHost h).idx = s.idx := rfl
@[simp] theorem State.withHost_obuf (h : List HostAccess) (s : State) : (s.withHost h).obuf = s.obuf := rfl
@[simp] theorem State.withHost_insr (h : List HostAccess) (s : State) : (s.withHost h).insr = s.insr := rfl
@[simp] theorem State.withHost_lastErr (h : List HostAccess) (s : State) : (s.withHost h).lastErr = s.lastErr := rfl
@[simp] theorem State.withHost_errs (h : List HostAccess) (s : State) : (s.withHost h).errs = s.errs := rfl
@[simp] theorem State.withHost_cfgErr (h : List HostAccess) (s : State) : (s.withHost h).cfgErr = s.cfgErr := rfl
@[simp] theorem State.withHost_host (h : List HostAccess) (s : State) : (s.withHost h).host = h := rfl
@[simp] theorem State.withHost_received (h : List HostAccess) (s : State) : (s.withHost h).received = s.received := rfl

/-! ### Reset -/

@[simp] theorem State.resetWith_params (p : Params) : (State.resetWith p).params = p := rfl
@[simp] theorem State.resetWith_ent (p : Params) : (State.resetWith p).ent = [] := rfl
@[simp] theorem State.resetWith_entOvf (p : Params) : (State.resetWith p).entOvf = false := rfl
@[simp] theorem State.resetWith_tok (p : Params) : (State.resetWith p).tok = [] := rfl
@[simp] theorem State.resetWith_tokOvf (p : Params) : (State.resetWith p).tokOvf = false := rfl
@[simp] theorem State.resetWith_digest (p : Params) : (State.resetWith p).digest = Hash8.zero := rfl
@[simp] theorem State.resetWith_cs (p : Params) : (State.resetWith p).cs = 0 := rfl
@[simp] theorem State.resetWith_csLen (p : Params) : (State.resetWith p).csLen = 0 := rfl
@[simp] theorem State.resetWith_csValid (p : Params) : (State.resetWith p).csValid = false := rfl
@[simp] theorem State.resetWith_idx (p : Params) : (State.resetWith p).idx = [] := rfl
@[simp] theorem State.resetWith_obuf (p : Params) : (State.resetWith p).obuf = [] := rfl
@[simp] theorem State.resetWith_insr (p : Params) : (State.resetWith p).insr = Insr.clear := rfl
@[simp] theorem State.resetWith_lastErr (p : Params) : (State.resetWith p).lastErr = if p.wordlist.length != Config.wlSize then .err .config else .ok := rfl
@[simp] theorem State.resetWith_errs (p : Params) : (State.resetWith p).errs = { Errs.clear with config := p.wordlist.length != Config.wlSize } := rfl
@[simp] theorem State.resetWith_cfgErr (p : Params) : (State.resetWith p).cfgErr = (p.wordlist.length != Config.wlSize) := rfl
@[simp] theorem State.resetWith_host (p : Params) : (State.resetWith p).host = [] := rfl
@[simp] theorem State.resetWith_received (p : Params) : (State.resetWith p).received = [] := rfl

/-- The reset instance is the reset of its own parameters: its ROM image holds `Config.wordCount` words. -/
theorem State.reset_eq_resetWith : State.reset = State.resetWith Config.params := by
  simp [State.reset, State.resetWith, Config.params, Config.wordlist]

/-! ### The registers -/

/-- A number below 2^32 reads as itself (00_scope.md R8). -/
theorem zext32_toNat {v : Nat} (h : v < 2 ^ 32) : (zext32 v).toNat = v := by
  rw [zext32, if_pos h, BitVec.toNat_ofNat, Nat.mod_eq_of_lt h]

@[simp] theorem zext32_zero : zext32 0 = 0 := rfl

end Sys2Proof.Machine
end

