-- ==== Sys2Proof/Laws/Ops.lean ====
section
/-! SUPPORT. For each shared operation, everything it can do, said once; later proofs cite these and do not unfold it. -/

namespace Sys2Proof.Machine

open Sys2Proof

/-- Setting the bit of a code sets it and no other. -/
@[simp] theorem Errs.get_set (e : Errs) (c d : ErrCode) : (e.set c).get d = (e.get d || d == c) := by
  cases c <;> cases d <;> simp [Errs.set, Errs.get]

@[simp] theorem Errs.get_clear (c : ErrCode) : Errs.clear.get c = false := by cases c <;> rfl

/-- Two sets of sticky bits with the same bits are the same. -/
theorem Errs.ext_get (e f : Errs) (h : ∀ c, e.get c = f.get c) : e = f := by
  obtain ⟨a, b, c, d, e, g, i⟩ := e
  have h1 := h .config; have h2 := h .illegal; have h3 := h .ovf; have h4 := h .empty
  have h5 := h .len; have h6 := h .range; have h7 := h .lookup
  simp only [Errs.get] at h1 h2 h3 h4 h5 h6 h7
  subst h1 h2 h3 h4 h5 h6 h7
  rfl

/-- Bits presented to `ENT` are all appended, or none is and `ENTOVF` is set. -/
theorem State.presentBits_cases (bits : Bits) (s : State) :
    (s.entOvf = false ∧ s.ent.length + bits.length ≤ s.params.entMax ∧
      s.presentBits bits = (s.appendEnt bits).ok) ∨
    ((s.entOvf = true ∨ s.params.entMax < s.ent.length + bits.length) ∧
      s.presentBits bits = s.setEntOvf.fail .ovf) := by
  unfold State.presentBits State.entRoom
  split
  · rename_i h; simp at h; exact .inl ⟨h.1, h.2, rfl⟩
  · rename_i h; simp at h
    refine .inr ⟨?_, rfl⟩
    cases hovf : s.entOvf
    · exact .inr (h hovf)
    · exact .inl rfl

/-- A byte presented to `TOK` is appended, or `TOK` is full and `TOKOVF` is set. -/
theorem State.presentTokByte_cases (b : Byte) (s : State) :
    (s.tok.length ≠ s.params.tokMax ∧ s.presentTokByte b = (s.appendTok b).ok) ∨
    (s.tok.length = s.params.tokMax ∧ s.presentTokByte b = s.setTokOvf.fail .ovf) := by
  unfold State.presentTokByte
  split
  · exact .inr ⟨‹_›, rfl⟩
  · exact .inl ⟨‹_›, rfl⟩

/-- `PACK` and `SERIAL` refuse while `ENTOVF` = 1, else run their body. -/
theorem State.unlessOverflowed_cases (s : State) (body : State → State) :
    (s.entOvf = true ∧ s.unlessOverflowed body = s.fail .ovf) ∨
    (s.entOvf = false ∧ s.unlessOverflowed body = body s) := by
  unfold State.unlessOverflowed
  cases s.entOvf <;> simp

/-- `CSUM` and `DERIVE`: three refusals in their order, or the body on a positive multiple of 32 bits. -/
theorem State.ifDerivable_cases (s : State) (body : State → State) :
    (s.entOvf = true ∧ s.ifDerivable body = s.fail .ovf) ∨
    (s.entOvf = false ∧ s.ent.length = 0 ∧ s.ifDerivable body = s.fail .empty) ∨
    (s.entOvf = false ∧ 0 < s.ent.length ∧ s.ent.length % 32 ≠ 0 ∧ s.ifDerivable body = s.fail .len) ∨
    (s.entOvf = false ∧ 0 < s.ent.length ∧ s.ent.length % 32 = 0 ∧ s.ifDerivable body = body s) := by
  unfold State.ifDerivable
  cases s.entOvf
  · by_cases h0 : s.ent.length = 0
    · simp [h0]
    · by_cases hm : s.ent.length % 32 = 0
      · simp [h0, hm]; omega
      · simp [h0, hm]; omega
  · simp

/-- `INSPECT`: an overflowed token, a long binary literal and an unknown word fail; the two other tokens hit. In
every case the token is consumed. -/
theorem State.inspectToken_cases (s : State) :
    (s.tokOvf = true ∧ s.inspectToken = s.consumeTok.inspectFail .ovf) ∨
    (s.tokOvf = false ∧ isBinaryLiteral s.tok = true ∧ 11 < s.tok.length ∧
      s.inspectToken = s.consumeTok.inspectFail .range) ∨
    (s.tokOvf = false ∧ isBinaryLiteral s.tok = true ∧ s.tok.length ≤ 11 ∧
      s.inspectToken = s.consumeTok.inspectHit .binary (literalIndex s.tok) (romWord s.params (literalIndex s.tok))) ∨
    (s.tokOvf = false ∧ isBinaryLiteral s.tok = false ∧ findWord s.params (trimSpace (toLowerAscii s.tok)) = none ∧
      s.inspectToken = s.consumeTok.inspectFail .lookup) ∨
    (s.tokOvf = false ∧ isBinaryLiteral s.tok = false ∧
      ∃ i, findWord s.params (trimSpace (toLowerAscii s.tok)) = some i ∧
        s.inspectToken = s.consumeTok.inspectHit .word (BitVec.ofNat 11 i) (bin11 (BitVec.ofNat 11 i))) := by
  unfold State.inspectToken classifyToken
  cases s.tokOvf
  · cases hb : isBinaryLiteral s.tok
    · cases hf : findWord s.params (trimSpace (toLowerAscii s.tok)) <;> simp [State.inspectWord, hf]
    · by_cases hl : 11 < s.tok.length
      · simp [State.inspectBinary, hl]
      · simp [State.inspectBinary, hl]; omega
  · simp

end Sys2Proof.Machine
end

