-- ==== Sys2Proof/Laws/Step.lean ====
section
/-! SUPPORT. What a step can do: one equation per kind of host access, and one per arm of `exec`. -/

namespace Sys2Proof.Machine

open Sys2Proof

theorem step_eq (s : State) : step s = nextAccess s := rfl

/-- With no access left nothing happens. -/
theorem step_of_host_nil (s : State) (h : s.host = []) : step s = .next s := by simp [step, nextAccess, h]

/-- A read delivers a value to the host. -/
theorem step_of_read (s : State) (n : RegNum) (rest : List HostAccess) (h : s.host = .read n :: rest) :
    step s = .next ((s.withHost rest).receive n) := by simp [step, nextAccess, h, hostAccess]

/-- A write of any register but `CMD` is ignored. -/
theorem step_of_other_write (s : State) (n : RegNum) (w : Word) (rest : List HostAccess) (hn : n ≠ cmdReg)
    (h : s.host = .write n w :: rest) : step s = .next (s.withHost rest) := by
  simp [step, nextAccess, h, hostAccess, hn]

/-- A write of `CMD` is `CmdWrite`. -/
theorem step_of_cmd_write (s : State) (w : Word) (rest : List HostAccess) (h : s.host = .write cmdReg w :: rest) :
    step s = cmdWrite w (s.withHost rest) := by simp [step, nextAccess, h, hostAccess]

/-- What `CmdWrite` can do, in its order. -/
theorem cmdWrite_cases (w : Word) (s : State) :
    (s.cfgErr = true ∧ cmdWrite w s = .next (s.fail .config)) ∨
    (s.cfgErr = false ∧ (∃ e, decode w = .error e) ∧ cmdWrite w s = .next (s.fail .illegal)) ∨
    (s.cfgErr = false ∧ ∃ i, decode w = .ok i ∧ cmdWrite w s = exec i s) := by
  unfold cmdWrite
  cases s.cfgErr
  · cases h : decode w <;> simp
  · simp

theorem exec_clr (s : State) : exec .clr s = .next s.clearAll.ok := rfl

theorem exec_pushb (b : BitVec 8) (s : State) : exec (.pushb b) s = .next (s.presentBits (byteBits b)) := by
  simp [exec, execPushb, entropyOperand, byteOperand]

theorem exec_pusht (c : BitVec 8) (s : State) : exec (.pusht c) s = .next (s.presentChar (charBit c)) := rfl

theorem exec_pushk (b : BitVec 8) (s : State) : exec (.pushk b) s = .next (s.presentTokByte b) := rfl

theorem exec_pack (s : State) :
    exec .pack s = .next (s.unlessOverflowed fun s => (s.writeObuf (bitsToBytes s.ent)).ok) := rfl

theorem exec_serial (s : State) :
    exec .serial s = .next (s.unlessOverflowed fun s => (s.writeObuf (serializeText s.ent)).ok) := rfl

theorem exec_csum (s : State) : exec .csum s = .next (s.ifDerivable fun s => s.writeHash.ok) := rfl

theorem exec_derive (s : State) : exec .derive s = .next (s.ifDerivable fun s => s.writeMnemonic.ok) := rfl

theorem exec_lookup (i : BitVec 11) (s : State) : exec (.lookup i) s = .next (s.writeObuf (romWord s.params i)).ok := rfl

theorem exec_inspect (s : State) : exec .inspect s = .next s.inspectToken := rfl

end Sys2Proof.Machine
end

