-- ==== Sys2Proof/Laws/Exec.lean ====
section
/-! SUPPORT. Everything `exec` and `step` can do, said once as a list of cases; invariants cite these and unfold nothing. -/

namespace Sys2Proof.Machine

open Sys2Proof

/-- Everything `exec` can do: one clause per way a command can end. -/
theorem exec_cases (i : Instr) (s t : State) (h : exec i s = .next t) :
    (i = .clr ∧ t = s.clearAll.ok) ∨
    (∃ c, t = s.fail c ∧ i ∈ [.pack, .serial, .csum, .derive] ∧ c ∈ [.ovf, .empty, .len]) ∨
    (t = s.setEntOvf.fail .ovf ∧ ((∃ b, i = .pushb b) ∨ ∃ b, i = .pusht b) ∧
      (s.entOvf = true ∨ s.params.entMax < s.ent.length + 8)) ∨
    (∃ b, i = .pushb b ∧ t = (s.appendEnt (byteBits b)).ok ∧ s.entOvf = false ∧ s.ent.length + 8 ≤ s.params.entMax) ∨
    (∃ b x, i = .pusht b ∧ charBit b = some x ∧ t = (s.appendEnt [x]).ok ∧ s.entOvf = false ∧ s.ent.length + 1 ≤ s.params.entMax) ∨
    (∃ b, i = .pusht b ∧ charBit b = none ∧ t = s.ok) ∨
    (∃ b, i = .pushk b ∧ t = (s.appendTok b).ok ∧ s.tok.length ≠ s.params.tokMax) ∨
    (∃ b, i = .pushk b ∧ t = s.setTokOvf.fail .ovf ∧ s.tok.length = s.params.tokMax) ∨
    (i = .pack ∧ t = (s.writeObuf (bitsToBytes s.ent)).ok ∧ s.entOvf = false) ∨
    (i = .serial ∧ t = (s.writeObuf (serializeText s.ent)).ok ∧ s.entOvf = false) ∨
    (i = .csum ∧ t = s.writeHash.ok ∧ s.entOvf = false ∧ 0 < s.ent.length ∧ s.ent.length % 32 = 0) ∨
    (i = .derive ∧ t = s.writeMnemonic.ok ∧ s.entOvf = false ∧ 0 < s.ent.length ∧ s.ent.length % 32 = 0) ∨
    (∃ k, i = .lookup k ∧ t = (s.writeObuf (romWord s.params k)).ok) ∨
    (∃ c, i = .inspect ∧ t = s.consumeTok.inspectFail c ∧ c ∈ [.ovf, .range, .lookup]) ∨
    (∃ k x, i = .inspect ∧ t = s.consumeTok.inspectHit k x (romWord s.params x)) ∨
    (∃ k x, i = .inspect ∧ t = s.consumeTok.inspectHit k x (bin11 x)) := by
  cases i with
  | clr => rw [exec_clr] at h; cases h; simp
  | pushb b =>
    rw [exec_pushb] at h; injection h with h; subst h
    rcases s.presentBits_cases (byteBits b) with ⟨h1, h2, h⟩ | ⟨ho, h⟩
    · simp at h2; simp [h, h1, h2]
    · simp at ho; simp [h, ho]
  | pusht b =>
    rw [exec_pusht] at h; injection h with h; subst h
    cases hc : charBit b with
    | none => simp [State.presentChar, hc]
    | some x =>
      simp only [State.presentChar]
      rcases s.presentBits_cases [x] with ⟨h1, h2, h⟩ | ⟨ho, h⟩
      · simp at h2; right; right; right; right; left; exact ⟨b, x, rfl, hc, h, h1, h2⟩
      · simp at ho; right; right; left; exact ⟨h, .inr ⟨b, rfl⟩, ho.imp id (by omega)⟩
  | pushk b =>
    rw [exec_pushk] at h; injection h with h; subst h
    rcases s.presentTokByte_cases b with ⟨h1, h⟩ | ⟨h1, h⟩ <;> simp [h, h1]
  | pack =>
    rw [exec_pack] at h; injection h with h; subst h
    rcases s.unlessOverflowed_cases fun s => (s.writeObuf (bitsToBytes s.ent)).ok with ⟨-, h⟩ | ⟨h1, h⟩
    · rw [h]; right; left; exact ⟨_, rfl, by simp, by simp⟩
    · rw [h]; simp [h1]
  | serial =>
    rw [exec_serial] at h; injection h with h; subst h
    rcases s.unlessOverflowed_cases fun s => (s.writeObuf (serializeText s.ent)).ok with ⟨-, h⟩ | ⟨h1, h⟩
    · rw [h]; right; left; exact ⟨_, rfl, by simp, by simp⟩
    · rw [h]; simp [h1]
  | csum =>
    rw [exec_csum] at h; injection h with h; subst h
    rcases s.ifDerivable_cases fun s => s.writeHash.ok with ⟨-, h⟩ | ⟨-, -, h⟩ | ⟨-, -, -, h⟩ | ⟨h1, h2, h3, h⟩
    · rw [h]; right; left; exact ⟨_, rfl, by simp, by simp⟩
    · rw [h]; right; left; exact ⟨_, rfl, by simp, by simp⟩
    · rw [h]; right; left; exact ⟨_, rfl, by simp, by simp⟩
    · rw [h]; simp [h1, h2, h3]
  | derive =>
    rw [exec_derive] at h; injection h with h; subst h
    rcases s.ifDerivable_cases fun s => s.writeMnemonic.ok with ⟨-, h⟩ | ⟨-, -, h⟩ | ⟨-, -, -, h⟩ | ⟨h1, h2, h3, h⟩
    · rw [h]; right; left; exact ⟨_, rfl, by simp, by simp⟩
    · rw [h]; right; left; exact ⟨_, rfl, by simp, by simp⟩
    · rw [h]; right; left; exact ⟨_, rfl, by simp, by simp⟩
    · rw [h]; simp [h1, h2, h3]
  | lookup k => rw [exec_lookup] at h; cases h; simp
  | inspect =>
    rw [exec_inspect] at h; injection h with h; subst h
    rcases s.inspectToken_cases with ⟨-, h⟩ | ⟨-, -, -, h⟩ | ⟨-, -, -, h⟩ | ⟨-, -, -, h⟩ | ⟨-, -, i, -, h⟩ <;> rw [h]
    · simp; exact .inl ⟨_, rfl, by simp⟩
    · simp; exact .inl ⟨_, rfl, by simp⟩
    · simp; exact .inr (.inl ⟨_, _, rfl⟩)
    · simp; exact .inl ⟨_, rfl, by simp⟩
    · simp; exact .inr (.inr ⟨_, _, rfl⟩)

/-- The parameters, `CFGERR` and the host's side are out of every command's reach. -/
theorem exec_frame (i : Instr) (s t : State) (h : exec i s = .next t) :
    t.params = s.params ∧ t.cfgErr = s.cfgErr ∧ t.host = s.host ∧ t.received = s.received := by
  rcases exec_cases i s t h with ⟨rfl, rfl⟩ | ⟨c, rfl, hi⟩ | ⟨rfl, hi, -⟩ | ⟨b, rfl, rfl, h1, h2⟩ | ⟨b, x, rfl, hc, rfl, h1, h2⟩ | ⟨b, rfl, hc, rfl⟩ | ⟨b, rfl, rfl, h1⟩ | ⟨b, rfl, rfl, h1⟩ | ⟨rfl, rfl, h1⟩ | ⟨rfl, rfl, h1⟩ | ⟨rfl, rfl, h1, h2, h3⟩ | ⟨rfl, rfl, h1, h2, h3⟩ | ⟨k, rfl, rfl⟩ | ⟨c, rfl, rfl, -⟩ | ⟨k, x, rfl, rfl⟩ | ⟨k, x, rfl, rfl⟩ <;> simp [State.writeMnemonic]

/-- No command sets ERRS[1], and `CLR` alone clears it. -/
theorem exec_errConfig (i : Instr) (s t : State) (h : exec i s = .next t) :
    t.errs.config = if i = .clr then false else s.errs.config := by
  rcases exec_cases i s t h with ⟨rfl, rfl⟩ | ⟨c, rfl, hi, hc⟩ | ⟨rfl, hi, -⟩ | ⟨b, rfl, rfl, -⟩ | ⟨b, x, rfl, -, rfl, -⟩ | ⟨b, rfl, -, rfl⟩ | ⟨b, rfl, rfl, -⟩ | ⟨b, rfl, rfl, -⟩ | ⟨rfl, rfl, -⟩ | ⟨rfl, rfl, -⟩ | ⟨rfl, rfl, -⟩ | ⟨rfl, rfl, -⟩ | ⟨k, rfl, rfl⟩ | ⟨c, rfl, rfl, hc⟩ | ⟨k, x, rfl, rfl⟩ | ⟨k, x, rfl, rfl⟩
  · rfl
  · have hne : i ≠ .clr := by rintro rfl; simp at hi
    rw [if_neg hne]
    simp only [List.mem_cons, List.not_mem_nil, or_false] at hc
    rcases hc with rfl | rfl | rfl <;> rfl
  · have hne : i ≠ .clr := by rcases hi with ⟨b, rfl⟩ | ⟨b, rfl⟩ <;> simp
    rw [if_neg hne]; rfl
  all_goals try rfl
  simp only [List.mem_cons, List.not_mem_nil, or_false] at hc
  rcases hc with rfl | rfl | rfl <;> rfl

/-- Every step answers a next state. -/
theorem step_next (s : State) : ∃ t, step s = .next t := by
  rcases hh : s.host with _ | ⟨a, rest⟩
  · exact ⟨_, step_of_host_nil s hh⟩
  · rcases a with n | ⟨n, w⟩
    · exact ⟨_, step_of_read s n rest hh⟩
    · by_cases hn : n = cmdReg
      · subst hn
        rw [step_of_cmd_write s w rest hh]
        rcases cmdWrite_cases w (s.withHost rest) with ⟨-, h⟩ | ⟨-, -, h⟩ | ⟨-, i, -, h⟩
        · exact ⟨_, h⟩
        · exact ⟨_, h⟩
        · rw [h]; cases i <;> exact ⟨_, rfl⟩
      · exact ⟨_, step_of_other_write s n w rest hn hh⟩

/-- Everything a step can do. -/
theorem step_cases (s t : State) (h : step s = .next t) :
    (s.host = [] ∧ t = s) ∨
    (∃ n rest, s.host = .read n :: rest ∧ t = (s.withHost rest).receive n) ∨
    (∃ n w rest, n ≠ cmdReg ∧ s.host = .write n w :: rest ∧ t = s.withHost rest) ∨
    (∃ w rest, s.host = .write cmdReg w :: rest ∧ s.cfgErr = true ∧ t = (s.withHost rest).fail .config) ∨
    (∃ w rest, s.host = .write cmdReg w :: rest ∧ s.cfgErr = false ∧ (∃ e, decode w = .error e) ∧ t = (s.withHost rest).fail .illegal) ∨
    (∃ w rest i, s.host = .write cmdReg w :: rest ∧ s.cfgErr = false ∧ decode w = .ok i ∧ exec i (s.withHost rest) = .next t) := by
  rcases hh : s.host with _ | ⟨a, rest⟩
  · rw [step_of_host_nil s hh] at h; cases h; simp
  · rcases a with n | ⟨n, w⟩
    · rw [step_of_read s n rest hh] at h; cases h
      right; left; exact ⟨n, rest, rfl, rfl⟩
    · by_cases hn : n = cmdReg
      · subst hn
        rw [step_of_cmd_write s w rest hh] at h
        rcases cmdWrite_cases w (s.withHost rest) with ⟨h1, h'⟩ | ⟨h1, h2, h'⟩ | ⟨h1, i, h2, h'⟩ <;> rw [h'] at h
        · cases h; right; right; right; left; exact ⟨w, rest, rfl, h1, rfl⟩
        · cases h; right; right; right; right; left; exact ⟨w, rest, rfl, h1, h2, rfl⟩
        · right; right; right; right; right; exact ⟨w, rest, i, rfl, h1, h2, h⟩
      · rw [step_of_other_write s n w rest hn hh] at h; cases h
        right; right; left; exact ⟨n, w, rest, hn, rfl, rfl⟩

/-- A step takes the host's next access off its sequence. -/
theorem step_host (s t : State) (h : step s = .next t) : t.host = s.host.tail := by
  rcases step_cases s t h with ⟨h0, rfl⟩ | ⟨n, rest, h0, rfl⟩ | ⟨n, w, rest, -, h0, rfl⟩ | ⟨w, rest, h0, -, rfl⟩ | ⟨w, rest, h0, -, -, rfl⟩ | ⟨w, rest, i, h0, -, -, h⟩
  all_goals try simp [h0]; done
  have := (exec_frame i _ t h).2.2.1
  simp [this, h0]

/-- A run is a step, then a shorter run. -/
theorem run_succ_of_next (k : Nat) (s t : State) (h : step s = .next t) :
    Host.Core.run Sys2Proof.core (k + 1) s = Host.Core.run Sys2Proof.core k t := by
  have h' : Sys2Proof.core.step s = .next t := h
  simp only [Host.Core.run, h']

end Sys2Proof.Machine
end

