-- ==== Sys2Proof/Laws/Text.lean ====
section
/-! SUPPORT. The small lemmas of the persisted text. -/

namespace Sys2Proof.Machine

open Sys2Proof

/-- A separator is nothing, one `SP` or one `LF`. -/
theorem separatorAfter_cases (n j : Nat) :
    separatorAfter n j = [] ∨ separatorAfter n j = [chrSP] ∨ separatorAfter n j = [chrLF] := by
  unfold separatorAfter
  split
  · simp
  · split <;> simp

@[simp] theorem loadFilter_nil : loadFilter [] = [] := rfl

theorem loadFilter_append (F G : Bytes) : loadFilter (F ++ G) = loadFilter F ++ loadFilter G := by
  simp [loadFilter]

@[simp] theorem loadFilter_digit_cons (b : Bool) (F : Bytes) : loadFilter (digitChar b :: F) = b :: loadFilter F := by
  simp [loadFilter]

@[simp] theorem loadFilter_separatorAfter (n j : Nat) : loadFilter (separatorAfter n j) = [] := by
  rcases separatorAfter_cases n j with h | h | h <;> simp [h, loadFilter]

theorem loadFilter_cons (c : Byte) (F : Bytes) : loadFilter (c :: F) = (charBit c).toList ++ loadFilter F := by
  cases h : charBit c <;> simp [loadFilter, h]

end Sys2Proof.Machine
end

