-- ==== Sys2Proof/Laws/Sha256.lean ====
section
/-! SUPPORT. The lengths of SHA-256's parts, message words as sums, rounds and chaining word by word, and the checksum bits as a prefix of the hash bits. -/

namespace Sys2Proof.Machine

open Sys2Proof

@[simp] theorem roundConstants_length : roundConstants.length = 64 := rfl

@[simp] theorem messageWords_length (block : Bytes) : (messageWords block).length = 16 := by simp [messageWords]

@[simp] theorem extendSchedule_length (n : Nat) (ws : List Word) :
    (extendSchedule n ws).length = ws.length + n := by
  induction n generalizing ws with
  | zero => rfl
  | succ n ih => simp [extendSchedule, ih]; omega

@[simp] theorem bigEndianBytes_length (n v : Nat) : (bigEndianBytes n v).length = n := by simp [bigEndianBytes]

theorem padZeros_spec (L : Nat) : (L + 1 + padZeros L) % 64 = 56 := by
  unfold padZeros; omega

theorem padZeros_lt (L : Nat) : padZeros L < 64 := by
  unfold padZeros; omega

@[simp] theorem shaPad_length (M : Bytes) : (shaPad M).length = M.length + 1 + padZeros M.length + 8 := by
  simp [shaPad]; omega

@[simp] theorem wordBytes_length (w : Word) : (wordBytes w).length = 4 := by simp [wordBytes]

/-- Message word t as R144's sum. -/
theorem messageWord_toNat (block : Bytes) (t : Nat) :
    (messageWord block t).toNat = (block.getD (4 * t) 0).toNat * 2 ^ 24 + (block.getD (4 * t + 1) 0).toNat * 2 ^ 16 +
      (block.getD (4 * t + 2) 0).toNat * 2 ^ 8 + (block.getD (4 * t + 3) 0).toNat := by
  simp only [messageWord, BitVec.toNat_append, Nat.add_zero]
  generalize block.getD (4 * t) 0 = a
  generalize block.getD (4 * t + 1) 0 = b
  generalize block.getD (4 * t + 2) 0 = c
  generalize block.getD (4 * t + 3) 0 = d
  rw [← Nat.shiftLeft_add_eq_or_of_lt d.isLt, ← Nat.shiftLeft_add_eq_or_of_lt c.isLt,
    ← Nat.shiftLeft_add_eq_or_of_lt b.isLt]
  simp only [Nat.shiftLeft_eq]
  omega

/-- One round, word by word (R147). -/
theorem shaRound_words (v : Hash8) (k w : Word) :
    (shaRound v k w).words =
      [roundT1 v k w + roundT2 v, v.h0, v.h1, v.h2, v.h3 + roundT1 v k w, v.h4, v.h5, v.h6] := rfl

/-- Chaining adds word by word (R148). -/
theorem chain_words (H v : Hash8) : (chain H v).words = H.words.zipWith (· + ·) v.words := rfl

@[simp] theorem Hash8.words_length (H : Hash8) : H.words.length = 8 := rfl

@[simp] theorem Hash8.bytes_length (H : Hash8) : H.bytes.length = 32 := by
  simp [Hash8.bytes, Hash8.words]

@[simp] theorem checksumBits_length (s : Bits) : (checksumBits s).length = min (s.length / 32) 256 := by
  simp [checksumBits, hashBytes]

end Sys2Proof.Machine
end

