-- ==== Sys2Proof/Laws/WordRom.lean ====
section
/-! SUPPORT. The small lemmas of the word ROM and of derivation. -/

namespace Sys2Proof.Machine

open Sys2Proof

theorem combined_length (s : Bits) : (combined s).length = s.length + min (s.length / 32) 256 := by
  simp [combined]

/-- Within the block's capacity the combined length is 33 bits for every 32 (43_wordlist_derive.md R177). -/
theorem combined_length_of_le (s : Bits) (h : s.length % 32 = 0) (hle : s.length ≤ 1024) :
    (combined s).length = 33 * (s.length / 32) := by
  rw [combined_length]; omega

@[simp] theorem deriveIndices_length (s : Bits) : (deriveIndices s).length = (combined s).length / 11 := by
  simp [deriveIndices, Config.idxW]

@[simp] theorem joinWords_nil (p : Params) : joinWords p [] = [] := rfl

@[simp] theorem joinWords_singleton (p : Params) (i : Index) : joinWords p [i] = romWord p i := rfl

@[simp] theorem joinWords_cons_cons (p : Params) (i j : Index) (rest : List Index) :
    joinWords p (i :: j :: rest) = romWord p i ++ chrSP :: joinWords p (j :: rest) := rfl

/-- What a successful scan found: an index of the ROM's first 2048 entries that holds u, and no smaller one does. -/
theorem findWord_eq_some_iff (p : Params) (u : Bytes) (i : Nat) :
    findWord p u = some i ↔
      i < 2048 ∧ p.wordlist[i]? = some u ∧ ∀ j < i, p.wordlist[j]? ≠ some u := by
  unfold findWord
  rw [List.findIdx?_eq_some_iff_getElem]
  simp only [Config.wlSize, List.length_take, beq_iff_eq, List.getElem_take]
  constructor
  · rintro ⟨h, hu, hlt⟩
    refine ⟨by omega, ?_, ?_⟩
    · rw [List.getElem?_eq_getElem (by omega), hu]
    · intro j hj hju
      have := hlt j hj
      rw [List.getElem?_eq_getElem (by omega)] at hju
      simp_all
  · rintro ⟨h, hu, hlt⟩
    have hlen : i < p.wordlist.length := by
      by_contra hc
      rw [List.getElem?_eq_none (by omega)] at hu
      cases hu
    rw [List.getElem?_eq_getElem hlen] at hu
    refine ⟨by omega, by simpa using hu, ?_⟩
    intro j hj
    have := hlt j hj
    rw [List.getElem?_eq_getElem (by omega)] at this
    simpa using this

/-- A scan fails exactly when none of the ROM's first 2048 entries holds u. -/
theorem findWord_eq_none_iff (p : Params) (u : Bytes) :
    findWord p u = none ↔ u ∉ p.wordlist.take 2048 := by
  rw [findWord, List.findIdx?_eq_none_iff]
  simp only [Config.wlSize, beq_eq_false_iff_ne]
  exact ⟨fun h hu => h u hu rfl, fun h x hx hxu => h (hxu ▸ hx)⟩

end Sys2Proof.Machine
end

