-- ==== Sys2Proof/Laws/Memory.lean ====
section
/-! SUPPORT. The buffers stay within their capacities (`Memory.wf`): each operation that writes one keeps the form,
`ENT` and `TOK` by their own room tests, `OBUF` and `IDX` as long as what is written fits. -/

namespace Sys2Proof.Machine

open Sys2Proof

/-- Nothing but the buffers and their capacities bears on the form. -/
theorem Memory.wf_congr (s t : State) (hp : t.params = s.params) (h1 : t.ent = s.ent) (h2 : t.tok = s.tok)
    (h3 : t.idx = s.idx) (h4 : t.obuf = s.obuf) (h : Memory.wf s) : Memory.wf t := by
  simpa [Memory.wf, hp, h1, h2, h3, h4] using h

theorem Memory.wf_resetOf (p : Params) (n : Nat) : Memory.wf (State.resetOf p n) := by
  simp [Memory.wf, State.resetOf]

theorem Memory.wf_reset : Memory.wf State.reset := Memory.wf_resetOf _ _

theorem Memory.wf_ok (s : State) (h : Memory.wf s) : Memory.wf s.ok := h

theorem Memory.wf_fail (c : ErrCode) (s : State) (h : Memory.wf s) : Memory.wf (s.fail c) := h

theorem Memory.wf_clearAll (s : State) : Memory.wf s.clearAll := by simp [Memory.wf]

theorem Memory.wf_presentBits (bits : Bits) (s : State) (h : Memory.wf s) : Memory.wf (s.presentBits bits) := by
  rcases s.presentBits_cases bits with ⟨-, h2, he⟩ | ⟨-, he⟩
  · rw [he]; simpa [Memory.wf, h2] using h.2
  · rw [he]; exact h

theorem Memory.wf_presentTokByte (b : Byte) (s : State) (h : Memory.wf s) : Memory.wf (s.presentTokByte b) := by
  obtain ⟨h1, h2, h3, h4⟩ := h
  rcases s.presentTokByte_cases b with ⟨hne, he⟩ | ⟨-, he⟩
  · rw [he]; refine ⟨h1, ?_, h3, h4⟩; simp; omega
  · rw [he]; exact ⟨h1, h2, h3, h4⟩

theorem Memory.wf_writeObuf (bs : Bytes) (s : State) (h : Memory.wf s) (hbs : bs.length ≤ s.params.obufSize) :
    Memory.wf (s.writeObuf bs) := ⟨h.1, h.2.1, h.2.2.1, hbs⟩

theorem Memory.wf_writeIdx (I : List Index) (s : State) (h : Memory.wf s) (hI : I.length ≤ s.params.nidxMax) :
    Memory.wf (s.writeIdx I) := ⟨h.1, h.2.1, hI, h.2.2.2⟩

theorem Memory.wf_writeHash (s : State) (h : Memory.wf s) : Memory.wf s.writeHash := h

theorem Memory.wf_consumeTok (s : State) (h : Memory.wf s) : Memory.wf s.consumeTok :=
  ⟨h.1, by simp, h.2.2.1, h.2.2.2⟩

theorem Memory.wf_inspectFail (c : ErrCode) (s : State) (h : Memory.wf s) : Memory.wf (s.inspectFail c) :=
  ⟨h.1, h.2.1, h.2.2.1, by simp⟩

theorem Memory.wf_inspectHit (k : InspectKind) (i : Index) (text : Bytes) (s : State) (h : Memory.wf s)
    (ht : text.length ≤ s.params.obufSize) : Memory.wf (s.inspectHit k i text) := ⟨h.1, h.2.1, h.2.2.1, ht⟩

theorem Memory.wf_receive (n : RegNum) (s : State) (h : Memory.wf s) : Memory.wf (s.receive n) := h

theorem Memory.wf_withHost (a : List HostAccess) (s : State) (h : Memory.wf s) : Memory.wf (s.withHost a) := h

end Sys2Proof.Machine
end

