-- ==== Sys2Proof/Laws/PerInstr.lean ====
section
/-! SUPPORT. The per-instruction family `Row`: a command is well-formed, its word is matched by its own row of the
opcode table (30_encoding.md R76), and the word is the opcode above its immediate (R79). -/

namespace Sys2Proof.Laws.Row

open Sys2Proof

/-- The row of the table that bears the command's mnemonic matches its word, and bits 31:24 are its opcode. -/
def Statement (i : Instr) : Prop :=
  i.wellFormed = true ∧ opcodeField (encode i) = i.opcode ∧
    ∃ r ∈ opcodeTable, r.mnemonic = i.mnemonic ∧ r.accepts (encode i) = true

theorem clr : Statement .clr := by
  refine ⟨Instr.wellFormed_true _, by decide, ⟨"CLR", 0x01000000, 0xFFFFFFFF⟩, by decide, rfl, by decide⟩

theorem pushb (imm8 : BitVec 8) : Statement (.pushb imm8) := by
  refine ⟨Instr.wellFormed_true _, ?_, ⟨"PUSHB", 0x10000000, 0xFFFFFF00⟩, by decide, rfl, ?_⟩ <;>
    revert imm8 <;> decide

theorem pusht (imm8 : BitVec 8) : Statement (.pusht imm8) := by
  refine ⟨Instr.wellFormed_true _, ?_, ⟨"PUSHT", 0x11000000, 0xFFFFFF00⟩, by decide, rfl, ?_⟩ <;>
    revert imm8 <;> decide

theorem pushk (imm8 : BitVec 8) : Statement (.pushk imm8) := by
  refine ⟨Instr.wellFormed_true _, ?_, ⟨"PUSHK", 0x12000000, 0xFFFFFF00⟩, by decide, rfl, ?_⟩ <;>
    revert imm8 <;> decide

theorem pack : Statement .pack := by
  refine ⟨Instr.wellFormed_true _, by decide, ⟨"PACK", 0x20000000, 0xFFFFFFFF⟩, by decide, rfl, by decide⟩

theorem serial : Statement .serial := by
  refine ⟨Instr.wellFormed_true _, by decide, ⟨"SERIAL", 0x21000000, 0xFFFFFFFF⟩, by decide, rfl, by decide⟩

theorem csum : Statement .csum := by
  refine ⟨Instr.wellFormed_true _, by decide, ⟨"CSUM", 0x30000000, 0xFFFFFFFF⟩, by decide, rfl, by decide⟩

theorem derive : Statement .derive := by
  refine ⟨Instr.wellFormed_true _, by decide, ⟨"DERIVE", 0x31000000, 0xFFFFFFFF⟩, by decide, rfl, by decide⟩

theorem lookup (imm11 : BitVec 11) : Statement (.lookup imm11) := by
  refine ⟨Instr.wellFormed_true _, ?_, ⟨"LOOKUP", 0x40000000, 0xFFFFF800⟩, by decide, rfl, ?_⟩ <;>
    revert imm11 <;> decide +kernel

theorem inspect : Statement .inspect := by
  refine ⟨Instr.wellFormed_true _, by decide, ⟨"INSPECT", 0x41000000, 0xFFFFFFFF⟩, by decide, rfl, by decide⟩

end Sys2Proof.Laws.Row
end

