-- ==== Sys2Proof/Laws/Run.lean ====
section
/-! SUPPORT. Commands neither read nor write the host's side, and a run of a command sequence is the commands' meanings one after
another. -/

namespace Sys2Proof.Machine

open Sys2Proof

/-- Both fields of the host's side replaced. -/
def State.withSide (h : List HostAccess) (r : List Word) (s : State) : State := { s with host := h, received := r }

theorem exec_next (i : Instr) (s : State) : ∃ t, exec i s = .next t := by cases i <;> exact ⟨_, rfl⟩

/-- A command does the same whatever the host's side holds. -/
theorem exec_withSide (i : Instr) (s t : State) (h : List HostAccess) (r : List Word) (he : exec i s = .next t) :
    exec i (s.withSide h r) = .next (t.withSide h r) := by
  obtain ⟨_, ent, ovf, tok, tokOvf, _, _, _, _, _, _, _, _, _, _, _, _⟩ := s
  cases i with
  | clr => rw [exec_clr] at *; cases he; rfl
  | pushb b =>
    rw [exec_pushb] at *; injection he with he; subst he
    simp only [State.presentBits]; rw [apply_ite (State.withSide h r)]; rfl
  | pusht c =>
    rw [exec_pusht] at *; injection he with he; subst he
    cases charBit c with
    | none => rfl
    | some x => simp only [State.presentChar, State.presentBits]; rw [apply_ite (State.withSide h r)]; rfl
  | pushk b =>
    rw [exec_pushk] at *; injection he with he; subst he
    simp only [State.presentTokByte]; rw [apply_ite (State.withSide h r)]; rfl
  | pack => rw [exec_pack] at *; injection he with he; subst he; cases ovf <;> rfl
  | serial => rw [exec_serial] at *; injection he with he; subst he; cases ovf <;> rfl
  | csum =>
    rw [exec_csum] at *; injection he with he; subst he
    simp only [State.ifDerivable, State.withSide]
    cases ovf
    · by_cases h0 : ent.length = 0
      · simp [h0]; rfl
      · by_cases h1 : ent.length % 32 = 0
        · simp [h0, h1]; rfl
        · simp [h0, h1]; rfl
    · rfl
  | derive =>
    rw [exec_derive] at *; injection he with he; subst he
    simp only [State.ifDerivable, State.withSide]
    cases ovf
    · by_cases h0 : ent.length = 0
      · simp [h0]; rfl
      · by_cases h1 : ent.length % 32 = 0
        · simp [h0, h1]; rfl
        · simp [h0, h1]; rfl
    · rfl
  | lookup k => rw [exec_lookup] at *; cases he; rfl
  | inspect =>
    rw [exec_inspect] at *; injection he with he; subst he
    unfold State.inspectToken
    simp only [State.withSide]
    cases tokOvf
    · simp only [Bool.false_eq_true, if_false]
      cases classifyToken tok
      · simp only [State.inspectBinary]; split <;> rfl
      · simp only [State.inspectWord, State.consumeTok]
        split <;> rfl
    · rfl

theorem exec_withHost (i : Instr) (s t : State) (h : List HostAccess) (he : exec i s = .next t) :
    exec i (s.withHost h) = .next (t.withHost h) := by
  have hr := (exec_frame i s t he).2.2.2
  have e := exec_withSide i s t h s.received he
  rw [← hr] at e
  rw [show s.withHost h = s.withSide h t.received by rw [hr]; rfl]
  exact e

theorem runCommands_nil (s : State) : runCommands [] s = .next (s.withHost []) := rfl

/-- A run begins with its first command's meaning (given that the command's word decodes to it). -/
theorem runCommands_cons (i : Instr) (is : List Instr) (s t : State) (hd : decode (encode i) = .ok i)
    (hc : s.cfgErr = false) (he : exec i s = .next t) : runCommands (i :: is) s = runCommands is t := by
  have hs : step (s.withHost (issue (i :: is))) = .next (t.withHost (issue is)) := by
    rw [step_of_cmd_write (s.withHost (issue (i :: is))) (encode i) (issue is) rfl]
    rcases cmdWrite_cases (encode i) ((s.withHost (issue (i :: is))).withHost (issue is)) with
      ⟨h1, -⟩ | ⟨-, ⟨e, h2⟩, -⟩ | ⟨-, j, h2, h3⟩
    · simp [hc] at h1
    · rw [hd] at h2; cases h2
    · rw [hd] at h2; cases h2
      rw [h3]; exact exec_withHost i s t (issue is) he
  unfold runCommands
  rw [List.length_cons, run, run_succ_of_next _ _ _ hs]

/-- A run of two sequences is the run of the second from where the first ended. -/
theorem runCommands_append (a b : List Instr) (s t : State) (hd : ∀ i ∈ a, decode (encode i) = .ok i)
    (hc : s.cfgErr = false) (h : runCommands a s = .next t) : runCommands (a ++ b) s = runCommands b t := by
  induction a generalizing s with
  | nil => cases h; rfl
  | cons i a ih =>
    obtain ⟨u, hu⟩ := exec_next i s
    have hdi := hd i (by simp)
    rw [runCommands_cons i a s u hdi hc hu] at h
    rw [List.cons_append, runCommands_cons i _ s u hdi hc hu]
    exact ih u (fun j hj => hd j (by simp [hj])) ((exec_frame i s u hu).2.1.trans hc) h

end Sys2Proof.Machine
end

