-- ==== Sys2Proof/Tests/Slice0.lean ====
section
/-! SUPPORT. Tests of the model on the spec's own vectors (95_test_vectors.md), the well-formedness smoke, and for each
statement with hypotheses a concrete input that meets them (`test_hyps_…`). Every expected value is the spec's. -/

namespace Sys2Proof.Tests

open Sys2Proof Sys2Proof.Machine Sys2Proof.Spec

/-! ## Fixtures -/

/-- A hexadecimal digit in lower case. -/
def hexDigit (d : Nat) : Byte := if d < 10 then BitVec.ofNat 8 (0x30 + d) else BitVec.ofNat 8 (0x57 + d)

/-- `SYN[i]` of 95_test_vectors.md section 1: 'w' and three hexadecimal digits. -/
def synWord (i : Nat) : Bytes := [0x77, hexDigit (i / 256), hexDigit (i / 16 % 16), hexDigit (i % 16)]

/-- The synthetic ROM. -/
def synRom : List Bytes := (List.range 2048).map synWord

/-- R6's defaults with the ROM SYN. -/
def syn : Params := { entMax := 256, wordMax := 8, tokMax := 32, obufSize := 512, wordlist := synRom }

/-- The same with one word too few. -/
def syn2047 : Params := { syn with wordlist := (List.range 2047).map synWord }

/-- The same with one word too many. -/
def syn2049 : Params := { syn with wordlist := (List.range 2049).map synWord }

/-- A good block right after reset (the count written out, so that no proof walks the ROM: `good_eq`). -/
def good : State := State.resetOf syn 2048

/-- A bad block right after reset (`bad_eq`). -/
def bad : State := State.resetOf syn2047 2047

/-- A good block whose `ENT` holds n zero bits. -/
def zeros (n : Nat) : State := { good with ent := List.replicate n false }

/-- A good block whose `TOK` holds t. -/
def token (t : Bytes) : State := { good with tok := t }

/-- A good block after an overflowed append. -/
def overflowed : State := { zeros 256 with entOvf := true }

/-- A property of the state after the host writes the word w to `CMD`. -/
def afterWord (s : State) (w : Nat) (f : State → Bool) : Bool :=
  match step (s.withFetchWord 32 w) with
  | .next t => f t
  | _ => false

/-! ## Well-formedness: one ill-formed term for each check -/

theorem test_wf_unknown_mnemonic : Source.wellFormed ⟨"NOP", none⟩ = false := by decide

theorem test_wf_lower_case_mnemonic : Source.wellFormed ⟨"clr", none⟩ = false := by decide

theorem test_wf_n_with_operand : Source.wellFormed ⟨"CLR", some 0⟩ = false := by decide

theorem test_wf_b_without_operand : Source.wellFormed ⟨"PUSHB", none⟩ = false := by decide

theorem test_wf_b_out_of_range : Source.wellFormed ⟨"PUSHB", some 256⟩ = false := by decide

theorem test_wf_x_without_operand : Source.wellFormed ⟨"LOOKUP", none⟩ = false := by decide

theorem test_wf_x_out_of_range : Source.wellFormed ⟨"LOOKUP", some 2048⟩ = false := by decide

theorem test_wf_boundaries : Source.wellFormed ⟨"PUSHK", some 255⟩ = true ∧ Source.wellFormed ⟨"LOOKUP", some 2047⟩ = true := by
  decide

theorem test_wf_params_default : Config.params.valid = true ∧ Config.params.obufNeed = 280 := by decide

theorem test_wf_params_entMax :
    ({ Config.params with entMax := 255 } : Params).valid = false ∧ ({ Config.params with entMax := 0 } : Params).valid = false ∧
      ({ Config.params with entMax := 1056, obufSize := 3840 } : Params).valid = false := by decide

theorem test_wf_params_wordMax : ({ Config.params with wordMax := 0 } : Params).valid = false := by decide

theorem test_wf_params_tokMax :
    ({ Config.params with tokMax := 10 } : Params).valid = false ∧
      ({ Config.params with wordMax := 12, tokMax := 11 } : Params).valid = false := by decide

theorem test_wf_params_obufSize :
    ({ Config.params with obufSize := 279 } : Params).valid = false ∧
      ({ Config.params with obufSize := 280 } : Params).valid = true ∧
      ({ Config.params with obufSize := 3841 } : Params).valid = false := by decide

theorem test_wf_goodRom : syn.goodRom = true ∧ syn2047.goodRom = false ∧ syn2049.goodRom = false := by decide +kernel

theorem test_wf_wordsFit : ({ syn with wordMax := 3 } : Params).wordsFit = false := by decide +kernel

/-! ## Decoding: every command's word bit by bit (30_encoding.md R72, R73, R74, R81) -/

theorem test_decode_clr : decode 0b00000001_000000000000000000000000 = .ok .clr := by decide

theorem test_decode_pushb : decode 0b00010000_0000000000000000_10100101 = .ok (.pushb 0xA5) := by decide

theorem test_decode_pusht : decode 0b00010001_0000000000000000_00110000 = .ok (.pusht 0x30) := by decide

theorem test_decode_pushk : decode 0b00010010_0000000000000000_01111010 = .ok (.pushk 0x7A) := by decide

theorem test_decode_pack : decode 0b00100000_000000000000000000000000 = .ok .pack := by decide

theorem test_decode_serial : decode 0b00100001_000000000000000000000000 = .ok .serial := by decide

theorem test_decode_csum : decode 0b00110000_000000000000000000000000 = .ok .csum := by decide

theorem test_decode_derive : decode 0b00110001_000000000000000000000000 = .ok .derive := by decide

theorem test_decode_lookup : decode 0b01000000_0000000000000_11111111111 = .ok (.lookup 2047) := by decide

theorem test_decode_inspect : decode 0b01000001_000000000000000000000000 = .ok .inspect := by decide

/-- Illegal words, each refused by name (E1 to E5). -/
theorem test_decode_illegal :
    decode 0x00000000 = .error (.unknownOpcode 0x00) ∧ decode 0x01000001 = .error (.reservedBitSet .n) ∧
      decode 0x10000100 = .error (.reservedBitSet .b) ∧ decode 0x40000800 = .error (.reservedBitSet .x) ∧
      decode 0x02000000 = .error (.unknownOpcode 0x02) ∧ decode 0x42000000 = .error (.unknownOpcode 0x42) ∧
      decode 0xFFFFFFFF = .error (.unknownOpcode 0xFF) := by decide

theorem test_decodeTableWord :
    decodeTableWord 32 0x400007FF = some (.lookup 2047) ∧ decodeTableWord 32 0x00000000 = none := by decide

/-! ## One step each, from 95_test_vectors.md -/

/-- B27: `CLR` after an overflow. -/
theorem test_clr : afterWord overflowed 0x01000000 (fun t => t.ent == [] && !t.entOvf && regRead t 0x000 == 0x00000000) = true := by decide +kernel

/-- B20. -/
theorem test_pushb :
    afterWord good 0x100000A5 (fun t => t.ent == [true, false, true, false, false, true, false, true] && t.lastErr == .ok)
      = true := by decide +kernel

/-- B26: no partial append. -/
theorem test_pushb_overflow :
    afterWord (zeros 250) 0x10000000 (fun t => t.ent.length == 250 && regRead t 0x000 == 0x00000823) = true := by
  decide +kernel

/-- T10's last character. -/
theorem test_pusht : afterWord good 0x11000031 (fun t => t.ent == [true] && t.lastErr == .ok) = true := by decide +kernel

/-- T13: an ignored character while `ENTOVF` = 1. -/
theorem test_pusht_ignored :
    afterWord { overflowed with errs := overflowed.errs.set .ovf } 0x11000020
      (fun t => t.ent.length == 256 && regRead t 0x000 == 0x00000820) = true := by decide +kernel

/-- P4's first command. -/
theorem test_pushk : afterWord good 0x12000031 (fun t => t.tok == [0x31] && t.lastErr == .ok) = true := by decide +kernel

/-- I20: the 33rd byte. -/
theorem test_pushk_overflow :
    afterWord (token (List.replicate 32 0x31)) 0x12000031
      (fun t => t.tok.length == 32 && regRead t 0x000 == 0x00000843) = true := by decide +kernel

/-- B24: 11 bits. -/
theorem test_pack :
    afterWord { good with ent := [true, false, true] ++ List.replicate 8 true } 0x20000000 (fun t => t.obuf == [0xBF, 0xE0])
      = true := by decide +kernel

/-- T9: the length and the line ends of a 256-bit text. -/
theorem test_serial :
    afterWord (zeros 256) 0x21000000
      (fun t => t.obuf.length == 280 && (t.obuf.findIdxs (· == 0x0A)) == [71, 143, 215, 279]) = true := by decide +kernel

/-- T5: a space between groups, none before the newline. -/
theorem test_serial_groups :
    afterWord { good with ent := (List.range 12).map (· % 2 == 0) } 0x21000000
      (fun t => t.obuf == [0x31, 0x30, 0x31, 0x30, 0x31, 0x30, 0x31, 0x30, 0x31, 0x30, 0x31, 0x20, 0x30, 0x0A]) = true := by
  decide +kernel

/-- K1. -/
theorem test_csum :
    afterWord (zeros 256) 0x30000000
      (fun t => regRead t 0x008 == 0x66687aad && regRead t 0x002 == 8 && regRead t 0x003 == 0x66 &&
        regRead t 0x000 == 0x00000080) = true := by decide +kernel

/-- K12: 255 bits. -/
theorem test_csum_len : afterWord (zeros 255) 0x30000000 (fun t => regRead t 0x000 == 0x00002005) = true := by decide +kernel

/-- V8. -/
theorem test_derive :
    afterWord { good with ent := bytesToBits [0xDE, 0xAD, 0xBE, 0xEF] } 0x31000000
      (fun t => t.idx == [1781, 879, 1502] &&
        t.obuf == [0x77, 0x36, 0x66, 0x35, 0x20, 0x77, 0x33, 0x36, 0x66, 0x20, 0x77, 0x35, 0x64, 0x65]) = true := by
  decide +kernel

/-- K14 with `DERIVE`: overflow wins over length. -/
theorem test_derive_overflow :
    afterWord { zeros 250 with entOvf := true } 0x31000000 (fun t => regRead t 0x000 == 0x00000823 && t.idx == []) = true := by
  decide +kernel

/-- V12. -/
theorem test_lookup : afterWord good 0x400007FF (fun t => t.obuf == [0x77, 0x37, 0x66, 0x66]) = true := by decide +kernel

/-- E7: `LASTERR` 0 while the sticky bit stays. -/
theorem test_lookup_sticky :
    afterWord (good.fail .illegal) 0x40000000 (fun t => regRead t 0x000 == 0x00000400 && t.obuf == [0x77, 0x30, 0x30, 0x30])
      = true := by decide +kernel

/-- I1. -/
theorem test_inspect_binary :
    afterWord (token [0x31, 0x30, 0x31]) 0x41000000
      (fun t => regRead t 0x007 == 0x00010005 && t.obuf == [0x77, 0x30, 0x30, 0x35] && t.tok == []) = true := by decide +kernel

/-- I10: lowercased. -/
theorem test_inspect_word :
    afterWord (token [0x57, 0x30, 0x30, 0x35]) 0x41000000
      (fun t => regRead t 0x007 == 0x00020005 &&
        t.obuf == [0x30, 0x30, 0x30, 0x30, 0x30, 0x30, 0x30, 0x30, 0x31, 0x30, 0x31]) = true := by decide +kernel

/-- E1. -/
theorem test_illegal : afterWord good 0x00000000 (fun t => regRead t 0x000 == 0x00000402) = true := by decide +kernel

/-- E21, E22: the CFGERR state. -/
theorem test_cfgErr :
    afterWord bad 0x01000000 (fun t => regRead t 0x000 == 0x00000211) = true ∧
      afterWord bad 0x00000000 (fun t => regRead t 0x000 == 0x00000211) = true := by
  decide +kernel

/-- Every row runs as the first command after reset, with a free word list. -/
theorem test_every_row_runs_from_reset :
    ∀ w ∈ [0x01000000, 0x10000000, 0x11000000, 0x12000000, 0x20000000, 0x21000000, 0x30000000, 0x31000000, 0x40000000,
      0x41000000], afterWord State.reset w (fun _ => true) = true := by decide

/-- 42_sha256_checksum.md section 2 of the vectors: a message of two blocks (56 bytes 0x00), first and last word. -/
theorem test_sha256_two_blocks :
    (sha256 (List.replicate 56 0)).h0 = 0xd4817aa5 ∧ (sha256 (List.replicate 56 0)).h7 = 0xbe789fbb := by decide +kernel

/-- 2.1 of the vectors: `W[16..19]` for "abc". -/
theorem test_schedule :
    ((schedule (messageWords (shaPad [0x61, 0x62, 0x63]))).drop 16).take 4 =
      [0x61626380, 0x000f0000, 0x7da86405, 0x600003c6] := by decide +kernel

/-- 2.1 of the vectors: the working variables after round 0 for "abc". -/
theorem test_round :
    (shaRound initialHash 0x428a2f98 0x61626380).words =
      [0x5d6aebcd, 0x6a09e667, 0xbb67ae85, 0x3c6ef372, 0xfa2a4622, 0x510e527f, 0x9b05688c, 0x1f83d9ab] := by decide +kernel

/-! ## The hypotheses of the statements can be met -/

theorem syn_length : syn.wordlist.length = 2048 := by simp [syn, synRom]

/-- What a hexadecimal digit is not, and its value back. -/
theorem hexDigit_plain : ∀ d < 16, hexDigit d ≠ chrSP ∧ isTrimByte (hexDigit d) = false ∧ lowerByte (hexDigit d) = hexDigit d ∧
    (if (hexDigit d).toNat < 0x40 then (hexDigit d).toNat - 0x30 else (hexDigit d).toNat - 0x57) = d := by decide

theorem synWord_premises (i : Nat) (hi : i < 2048) : wordPremises syn (synWord i) := by
  obtain ⟨a1, a2, a3, -⟩ := hexDigit_plain (i / 256) (by omega)
  obtain ⟨b1, b2, b3, -⟩ := hexDigit_plain (i / 16 % 16) (by omega)
  obtain ⟨c1, c2, c3, -⟩ := hexDigit_plain (i % 16) (by omega)
  have hw : isTrimByte 0x77#8 = false := by decide
  have hl : lowerByte 0x77#8 = 0x77#8 := by decide
  have hs : chrSP ≠ 0x77 := by decide
  refine ⟨?_, ?_, ?_, ?_, ?_, ?_⟩
  · simp [synWord]
  · show 4 ≤ 8; omega
  · simp [synWord, a1.symm, b1.symm, c1.symm]; exact hs
  · simp [trimSpace, synWord, hw, c2]
  · simp [toLowerAscii, synWord, a3, b3, c3]; exact hl
  · simp [isBinaryLiteral, synWord, chr0, chr1]

/-- The number a SYN word writes. -/
def synValue (w : Bytes) : Nat :=
  (w.drop 1).foldl (fun v c => 16 * v + (if c.toNat < 0x40 then c.toNat - 0x30 else c.toNat - 0x57)) 0

theorem synValue_synWord (i : Nat) (hi : i < 2048) : synValue (synWord i) = i := by
  obtain ⟨-, -, -, a⟩ := hexDigit_plain (i / 256) (by omega)
  obtain ⟨-, -, -, b⟩ := hexDigit_plain (i / 16 % 16) (by omega)
  obtain ⟨-, -, -, c⟩ := hexDigit_plain (i % 16) (by omega)
  simp only [synValue, synWord, List.drop_succ_cons, List.drop_zero, List.foldl_cons, List.foldl_nil, a, b, c]
  omega

theorem syn_wordlist : syn.wordlist = (List.range 2048).map synWord := by simp only [syn, synRom]

/-- SYN satisfies R171 and R172, as 95_test_vectors.md section 1 says (`InspectionRoundTrips`). -/
theorem test_hyps_romPremises : RomPremises syn := by
  refine And.intro syn_length (And.intro ?_ ?_)
  · simp only [syn_wordlist, List.mem_map, List.mem_range]
    rintro w ⟨i, hi, rfl⟩
    exact synWord_premises i hi
  · simp only [syn_wordlist]
    apply List.Nodup.map_on _ List.nodup_range
    simp only [List.mem_range]
    intro i hi j hj h
    have := congrArg synValue h
    rwa [synValue_synWord i hi, synValue_synWord j hj] at this

theorem syn_wordsFit : syn.wordsFit = true := by
  simp only [Params.wordsFit, List.all_eq_true, decide_eq_true_eq]
  exact fun w hw => (test_hyps_romPremises.2.1 w hw).2.1

/-- A legal state that is not the reset state: after K1's `CSUM`, with a token and an output. -/
def busy : State := { (zeros 256).writeHash with tok := [0x7A], obuf := [0x41], idx := [5], errs := good.errs.set .ovf }

theorem bad_eq : bad = State.resetWith syn2047 := by
  rw [State.resetWith, bad]; simp [syn2047]

theorem good_eq : good = State.resetWith syn := by rw [State.resetWith, syn_length, good]

theorem zeros_ent (n : Nat) : (zeros n).ent.length = n := by simp [zeros]

theorem busy_ent : busy.ent.length = 256 := by simp only [busy, State.writeHash_ent, zeros_ent]

theorem busy_checksum : checksumCurrent busy := by
  intro _
  rw [busy_ent]
  simp only [busy, State.writeHash_csLen, State.writeHash_digest, State.writeHash_cs, State.writeHash_ent, zeros_ent]
  decide

/-- `RegisterMapReadsAsTabulated`, `EveryStepKeepsLegality`: a legal state that is not the reset state. -/
theorem test_hyps_legal : Legal busy ∧ busy.tok.length < 2 ^ 32 := by
  refine ⟨⟨by decide, syn_wordsFit, ?_, ?_, by decide +kernel, busy_checksum, by decide, by decide, ?_, ?_, rfl, ?_⟩, by decide⟩
  · refine ⟨?_, by decide, by decide, by decide⟩
    rw [busy_ent]; decide
  · show (zeros 256).ent.length / 32 ≤ 256 / 32
    rw [zeros_ent]
  · show false = (syn.wordlist.length != Config.wlSize)
    rw [syn_length]; rfl
  · intro c h; cases h
  · intro h; cases h

/-- `RegisterMapReadsAsTabulated`: each window's first and last number, the unmapped numbers around them, a read, and a
write elsewhere. -/
theorem test_hyps_registerMap :
    (0 < busy.params.nidxMax ∧ 23 < busy.params.nidxMax ∧ 511 < busy.params.obufSize) ∧
    (∀ n ∈ [0x011#12, 0x03F#12, 0x058#12, 0x0FF#12, 0x300#12, 0xFFF#12],
      (0x010 < n.toNat ∧ n.toNat < 0x040) ∨ (0x040 + busy.params.nidxMax ≤ n.toNat ∧ n.toNat < 0x100) ∨
        0x100 + busy.params.obufSize ≤ n.toNat) ∧
    (busy.withHost [.read 0x008]).host = .read 0x008 :: [] ∧
    (0x011#12 ≠ 0x010#12 ∧ (busy.withHost [.write 0x011 5]).host = .write 0x011 5 :: []) := by
  rw [show busy.params = syn from rfl, show syn.nidxMax = 24 from rfl, show syn.obufSize = 512 from rfl]
  exact ⟨by decide, by simp, rfl, by decide, rfl⟩

/-- `IllegalWordFailsAndChangesNothing`, `StepExecutesTheDecodedCommand`, `IssuedAs`: a good and a bad block with a word
waiting, legal and not. -/
theorem test_hyps_step :
    ((bad.withHost [.write 0x010 0x01000000]).host = .write 0x010 0x01000000 :: [] ∧
      (bad.withHost [.write 0x010 0x01000000]).cfgErr = true) ∧
    ((good.withHost [.write 0x010 0x40000800]).host = .write 0x010 0x40000800 :: [] ∧
      (good.withHost [.write 0x010 0x40000800]).cfgErr = false ∧ decode 0x40000800 = .error (.reservedBitSet .x) ∧
      ∀ r ∈ opcodeTable, (0x40000800 : Word) &&& r.mask ≠ r.matchBits) ∧
    ((good.withHost [.write 0x010 0x400007FF]).host = .write 0x010 0x400007FF :: [] ∧
      (good.withHost [.write 0x010 0x400007FF]).cfgErr = false ∧ decode 0x400007FF = .ok (.lookup 2047)) := by
  decide +kernel

/-- `EverySequenceReachesItsEnd`, second clause. -/
theorem test_hyps_end : good.host = [] := rfl

/-- `CfgErrStateNeverChanges`: one word too few, one too many. -/
theorem test_hyps_cfgErr : syn2047.wordlist.length ≠ 2048 ∧ syn2049.wordlist.length ≠ 2048 := by
  simp [syn2047, syn2049]

/-- `ParametersAndCfgErrAreConstant`, `EveryStepKeepsLegality`. -/
theorem test_hyps_legalStep : Legal busy ∧ ∃ t, step busy = .next t := ⟨test_hyps_legal.1, step_next busy⟩

/-- `ResetStateIsLegal`, with a good ROM and with a bad one. -/
theorem test_hyps_resetLegal :
    syn.valid = true ∧ syn.wordsFit = true ∧ syn2047.valid = true ∧ syn2047.wordsFit = true := by decide +kernel

/-- `ErrorBitsAreSticky`: a command, and an access that is none (the legal state that steps is `test_hyps_legalStep`'s). -/
theorem test_hyps_sticky :
    ((good.withHost [.write 0x010 0x01000000]).host = .write 0x010 0x01000000 :: [] ∧
      ∃ t, step (good.withHost [.write 0x010 0x01000000]) = .next t) ∧
    ((∀ w rest, (good.withHost [.read 0]).host ≠ .write 0x010 w :: rest) ∧ ∃ t, step (good.withHost [.read 0]) = .next t) :=
  ⟨⟨rfl, step_next _⟩, ⟨fun _ _ h => by simp at h, step_next _⟩⟩

/-- `ErrorBitsAreSticky`, third clause: a legal state in which ERRS[1] is set. -/
theorem test_hyps_stickyConfig : Legal bad ∧ bad.errs.get .config = true ∧ ∃ t, step bad = .next t := by
  refine ⟨⟨by decide, test_hyps_resetLegal.2.2.2, by decide, by decide, by decide, ?_, ?_, ?_, ?_, ?_, rfl, ?_⟩, rfl, step_next bad⟩
  · intro h; cases h
  · intro h; cases h
  · intro h; cases h
  · show true = (syn2047.wordlist.length != Config.wlSize)
    simp [syn2047, Config.wlSize]
  · intro c h; cases h; rfl
  · intro _
    show bad = { State.resetWith syn2047 with host := [], received := [] }
    rw [← bad_eq, bad]; rfl

/-- The next state of a command that every `exec` answers, for the witnesses below. -/
def execState (i : Instr) (s : State) : State :=
  match exec i s with
  | .next t => t
  | _ => s

theorem exec_execState (i : Instr) (s : State) : exec i s = .next (execState i s) := by
  cases i <;> rfl

/-- `FailChangesOnlyWhatItsRuleLists`: a failing command for each arm, and one that succeeds. -/
theorem test_hyps_fail :
    (execState (.pushb 0) (zeros 250)).lastErr = .err .ovf ∧ (execState (.pusht 0x30) (zeros 256)).lastErr = .err .ovf ∧
    (execState (.pushk 0x61) (token (List.replicate 32 0x61))).lastErr = .err .ovf ∧
    (execState .inspect (token (List.replicate 12 0x30))).lastErr = .err .range ∧
    (execState .csum (zeros 0)).lastErr = .err .empty ∧ (execState .pack overflowed).lastErr = .err .ovf ∧
    (execState .pack (zeros 8)).lastErr = .ok := by decide +kernel

/-- `WriteSetsAreAsTabulated`: for each column a command that changes it. -/
theorem test_hyps_writeSets :
    (execState (.pusht 0x31) good).ent ≠ good.ent ∧ (execState (.pushb 0) (zeros 250)).entOvf ≠ (zeros 250).entOvf ∧
    (execState (.pushk 0x61) good).tok ≠ good.tok ∧
    (execState (.pushk 0x61) (token (List.replicate 32 0x61))).tokOvf ≠ good.tokOvf ∧
    (execState .csum (zeros 32)).digest ≠ (zeros 32).digest ∧ (execState .csum (zeros 32)).csValid ≠ (zeros 32).csValid ∧
    (execState .derive (zeros 32)).idx ≠ (zeros 32).idx ∧ (execState (.lookup 5) good).obuf ≠ good.obuf ∧
    (execState .inspect (token [0x31])).insr ≠ good.insr ∧ (execState .csum (zeros 0)).errs ≠ (zeros 0).errs := by
  decide +kernel

/-- `ProducersAreIdempotent`. -/
theorem test_hyps_idempotent : exec (.lookup 5) good = .next (execState (.lookup 5) good) ∧
    exec .derive (zeros 32) = .next (execState .derive (zeros 32)) := ⟨rfl, rfl⟩

/-- `ClearGivesTheResetState`, `LookupReadsTheRomWord`: a good block. -/
theorem test_hyps_goodRom : good.cfgErr = false ∧ good.params.wordlist.length = 2048 :=
  ⟨by decide, syn_length⟩

/-- `PushbAppendsEightBitsOrNone`: the last room and the first lack of it; an overflow pending. -/
theorem test_hyps_pushb :
    ((zeros 248).entOvf = false ∧ (zeros 248).ent.length + 8 ≤ (zeros 248).params.entMax) ∧
    (zeros 249).ent.length + 8 > (zeros 249).params.entMax ∧ overflowed.entOvf = true := by decide +kernel

/-- `PushtAppendsDigitsAndIgnoresTheRest`: the characters beside the two digits, and the last room. -/
theorem test_hyps_pusht :
    (0x2F#8 ≠ 0x30 ∧ 0x2F#8 ≠ 0x31) ∧ (0x32#8 ≠ 0x30 ∧ 0x32#8 ≠ 0x31) ∧
    ((zeros 255).entOvf = false ∧ (zeros 255).ent.length + 1 ≤ (zeros 255).params.entMax) ∧
    (zeros 256).ent.length + 1 > (zeros 256).params.entMax ∧ overflowed.entOvf = true := by decide +kernel

/-- `PushkAppendsTheByteOrOverflows`: 31 bytes and 32 bytes. -/
theorem test_hyps_pushk :
    (token (List.replicate 31 0x61)).tok.length ≠ (token (List.replicate 31 0x61)).params.tokMax ∧
    (token (List.replicate 32 0x61)).tok.length = (token (List.replicate 32 0x61)).params.tokMax := by decide +kernel

/-- `PackWritesThePaddedBytes`, `SerialWritesTheCanonicalText`: with and without an overflow; 67 bits have a digit, a line
end, a separator and an end. -/
theorem test_hyps_serializers :
    overflowed.entOvf = true ∧ (zeros 67).entOvf = false ∧ 66 < (zeros 67).ent.length ∧
    11 * (5 + 1) < (zeros 67).ent.length ∧ 0 < (zeros 67).ent.length ∧ 8 < (bitsToBytes (zeros 67).ent).length := by
  decide +kernel

/-- `CsumComputesTheChecksum`, `DeriveWritesTheMnemonic`, `IndicesSpellEntropyAndChecksum`: each refusal, the shortest and the
longest accepted buffer. -/
theorem test_hyps_hash :
    hashRefusal overflowed = some .ovf ∧ hashRefusal (zeros 0) = some .empty ∧ hashRefusal (zeros 31) = some .len ∧
    hashRefusal (zeros 32) = none ∧ hashRefusal (zeros 256) = none ∧ (zeros 256).ent.length ≤ 1024 ∧
    (zeros 256).ent.length / 32 ≤ 32 ∧ (zeros 256).params.wordlist.length = 2048 := by decide +kernel

/-- `IndicesSpellEntropyAndChecksum`, `MnemonicSplitsBackIntoItsWords`: SYN has no `SP`, and `DERIVE` answers. -/
theorem test_hyps_mnemonic :
    hashRefusal (zeros 32) = none ∧ (zeros 32).ent.length ≤ 1024 ∧ (zeros 32).params.wordlist.length = 2048 ∧
      (∀ w ∈ (zeros 32).params.wordlist, (0x20 : Byte) ∉ w) ∧ ∃ t, exec .derive (zeros 32) = .next t :=
  ⟨by decide, by decide, syn_length, fun w hw => (test_hyps_romPremises.2.1 w hw).2.2.1, _, rfl⟩

/-- `InspectGivesTheVerdict`: a token for each of the first three clauses, the binary ones at 11 and 12 characters. -/
theorem test_hyps_inspect :
    good.params.wordlist.length = 2048 ∧ ({ token [0x61] with tokOvf := true } : State).tokOvf = true ∧
    (token [0x61]).tokOvf = false ∧
    ((List.replicate 12 (0x31 : Byte)) ≠ [] ∧ (∀ c ∈ List.replicate 12 (0x31 : Byte), c = 0x30 ∨ c = 0x31) ∧
      11 < (List.replicate 12 (0x31 : Byte)).length) ∧
    ((List.replicate 11 (0x31 : Byte)) ≠ [] ∧ (∀ c ∈ List.replicate 11 (0x31 : Byte), c = 0x30 ∨ c = 0x31) ∧
      (List.replicate 11 (0x31 : Byte)).length ≤ 11) :=
  ⟨syn_length, by decide⟩

/-- `InspectGivesTheVerdict`, the word tokens: "zzz" is no word of SYN, " W7ff" is its last. -/
theorem test_hyps_inspectWord :
    (¬([0x7A, 0x7A, 0x7A] ≠ ([] : Bytes) ∧ ∀ c ∈ ([0x7A, 0x7A, 0x7A] : Bytes), c = 0x30 ∨ c = 0x31) ∧
      trimSpace (toLowerAscii [0x7A, 0x7A, 0x7A]) ∉ syn.wordlist) ∧
    (¬([0x20, 0x57, 0x37, 0x66, 0x66] ≠ ([] : Bytes) ∧ ∀ c ∈ ([0x20, 0x57, 0x37, 0x66, 0x66] : Bytes), c = 0x30 ∨ c = 0x31) ∧
      trimSpace (toLowerAscii [0x20, 0x57, 0x37, 0x66, 0x66]) ∈ syn.wordlist) := by
  rw [show trimSpace (toLowerAscii [0x7A, 0x7A, 0x7A]) = [0x7A, 0x7A, 0x7A] by decide,
    show trimSpace (toLowerAscii [0x20, 0x57, 0x37, 0x66, 0x66]) = synWord 2047 by decide]
  refine ⟨⟨by decide, ?_⟩, ⟨by decide, ?_⟩⟩
  · simp [syn_wordlist, synWord]
  · simp only [syn_wordlist, List.mem_map, List.mem_range]
    exact ⟨2047, by omega, rfl⟩

/-- `HashWordOperationsAreArithmetic`, `PaddingFillsWholeBlocks`, `ScheduleFollowsItsRecurrence`,
`CompressionIsSixtyFourRounds`, `HashChainsOverEveryBlock`: shifts 1 and 31, a message, sixteen words, a schedule and a third
block. -/
theorem test_hyps_sha256 :
    (0 < 1 ∧ 31 < 32) ∧ 8 * (List.replicate 55 (0 : Byte)).length < 2 ^ 64 ∧ 0 < padZeros 56 ∧
    (messageWords []).length = 16 ∧ (schedule (messageWords [])).length = 64 ∧ 2 < (128 + 8) / 64 + 1 := by decide +kernel

/-- `BytesToBitsIsMostSignificantFirst`, `IntToBits11InvertsBitsToInt`, `TrimAndLowerActAsStated`. -/
theorem test_hyps_codec :
    0 < ([0xA5] : Bytes).length ∧ (List.replicate 11 true).length = 11 ∧
    (trimSpace [0x20, 0x61, 0x20, 0x62, 0x0A]).head? = some 0x61 ∧
    (trimSpace [0x20, 0x61, 0x20, 0x62, 0x0A]).getLast? = some 0x62 := by decide

/-- `WordListResourceIsParsedLineByLine`: lines with a 0x0D and an empty one; without a leading mark too. -/
theorem test_hyps_parse :
    ([[0x61, 0x0D], [], [0x62]] : List Bytes) ≠ [] ∧ (∀ l ∈ ([[0x61, 0x0D], [], [0x62]] : List Bytes), (0x0A : Byte) ∉ l) ∧
    (List.intercalate [0x0A] ([[0x61, 0x0D], [], [0x62]] : List Bytes)).take 3 ≠ [0xEF, 0xBB, 0xBF] := by decide

/-- `PushSequencesLoadTheEntropy`, `PersistedTextLoadsBack`, `DerivationDependsOnlyOnTheDigits`: a full buffer's worth; a file
with a comment (P3) has the digits of one without. -/
theorem test_hyps_sequences :
    good.cfgErr = false ∧ good.ent = [] ∧ good.entOvf = false ∧ noErrors good ∧ good.params = (zeros 32).params ∧
    (zeros 32).cfgErr = false ∧ 8 * (List.replicate 32 (0 : Byte)).length ≤ good.params.entMax ∧
    (loadFilter (List.replicate 256 chr0)).length ≤ good.params.entMax ∧
    loadFilter [0x23, 0x20, 0x6D, 0x79, 0x0A, 0x31, 0x30, 0x0D, 0x0A] = loadFilter [0x31, 0x30] := by
  refine ⟨by decide, rfl, rfl, ?_, rfl, by decide, by decide, by decide +kernel, by decide⟩
  show good.errs = Errs.clear
  decide

/-- `InspectionRoundTrips`: SYN, index 0, and the literals "0" and "00000000000". -/
theorem test_hyps_roundTrip :
    good.params.valid = true ∧ RomPremises good.params ∧ good.cfgErr = false ∧ good.tok = [] ∧ good.tokOvf = false ∧
    (∀ l ∈ [[(0x30 : Byte)], List.replicate 11 0x30], 1 ≤ l.length ∧ l.length ≤ 11 ∧ (∀ c ∈ l, c = 0x30 ∨ c = 0x31) ∧
      literalValue l = (0 : Index).toNat) :=
  ⟨by decide, test_hyps_romPremises, by decide, rfl, rfl, by decide⟩

end Sys2Proof.Tests
end

section
/-! PROOFS of the family 10_state.md, 1: the lengths of the outputs and the bounds R6 gives for them. -/

namespace Sys2Proof

/-- R6's constraints, one by one. -/
theorem Params.valid_iff (p : Params) :
    p.valid = true ↔ p.entMax % 32 = 0 ∧ 32 ≤ p.entMax ∧ p.entMax ≤ 1024 ∧ 1 ≤ p.wordMax ∧ 11 ≤ p.tokMax ∧
      p.wordMax ≤ p.tokMax ∧ p.obufNeed ≤ p.obufSize ∧ p.obufSize ≤ 3840 := by
  simp [Params.valid, and_assoc]

/-- What each kind of output needs is within `OBUF_SIZE` (R6): canonical text, mnemonic, packed bytes, digits, a word. -/
theorem Params.obufNeed_le_iff (p : Params) (n : Nat) :
    p.obufNeed ≤ n ↔ p.entMax + (p.entMax + 10) / 11 ≤ n ∧ p.nidxMax * p.wordMax + p.nidxMax - 1 ≤ n ∧
      p.entMax / 8 ≤ n ∧ 11 ≤ n ∧ p.wordMax ≤ n := by
  simp only [Params.obufNeed, max_le_iff]

end Sys2Proof

namespace Sys2Proof.Machine

open Sys2Proof

theorem separatorAfter_eq (n j : Nat) :
    separatorAfter n j = if j % 66 = 0 then [chrLF] else if j % 11 = 0 ∧ j < n then [chrSP] else [] := rfl

theorem serializeFrom_nil (n i : Nat) : serializeFrom n i [] = if n % 66 ≠ 0 then [chrLF] else [] := rfl

theorem serializeFrom_cons (n i : Nat) (b : Bool) (rest : Bits) :
    serializeFrom n i (b :: rest) =
      digitChar b :: (separatorAfter n (i + 1) ++ serializeFrom n (i + 1) rest) := rfl

/-- Before the last digit a separator stands after every eleventh one (R121). -/
theorem separatorAfter_length_of_lt {n j : Nat} (h : j < n) :
    (separatorAfter n j).length = if j % 11 = 0 then 1 else 0 := by
  rw [separatorAfter_eq]
  by_cases h66 : j % 66 = 0
  · have h11 : j % 11 = 0 := by omega
    simp [h66, h11]
  · by_cases h11 : j % 11 = 0 <;> simp [h66, h11, h]

/-- After the last digit one `LF` ends the text, as a separator or as the end of an unfinished line (R121). -/
theorem separatorAfter_last_length (n : Nat) : (separatorAfter n n ++ serializeFrom n n []).length = 1 := by
  rw [separatorAfter_eq, serializeFrom_nil]
  by_cases h : n % 66 = 0 <;> simp [h]

/-- The rest of a text from its digit i on: the digits, and the separators of the whole text less those before. -/
theorem serializeFrom_length {n : Nat} (b : Bool) (rest : Bits) (i : Nat) (h : i + rest.length + 1 = n) :
    (serializeFrom n i (b :: rest)).length + i / 11 = rest.length + 1 + (n + 10) / 11 := by
  induction rest generalizing b i with
  | nil =>
    have hn : i + 1 = n := by simpa using h
    have hlast := separatorAfter_last_length n
    rw [serializeFrom_cons, List.length_cons, hn, hlast, List.length_nil]
    omega
  | cons c rest ih =>
    have hsep := separatorAfter_length_of_lt (n := n) (j := i + 1) (by simp at h; omega)
    have hrest := ih c (i + 1) (by simp at h; omega)
    rw [serializeFrom_cons, List.length_cons, List.length_append, hsep, List.length_cons]
    split <;> omega

/-- The canonical text of n bits has n digits and a separator for each group of up to 11 (R121). -/
@[simp] theorem serializeText_length (s : Bits) : (serializeText s).length = s.length + (s.length + 10) / 11 := by
  cases s with
  | nil => rfl
  | cons b rest => simpa [serializeText] using serializeFrom_length b rest 0 (by simp)

/-- `bitsToInt` of n bits is below 2^n (R102). -/
theorem bitsToInt_lt (g : Bits) : bitsToInt g < 2 ^ g.length := by
  induction g with
  | nil => simp
  | cons b g ih =>
    have hb : b.toNat ≤ 1 := b.toNat_le
    have hmul : b.toNat * 2 ^ g.length ≤ 1 * 2 ^ g.length := Nat.mul_le_mul_right _ hb
    rw [bitsToInt_cons, List.length_cons, pow_succ]
    omega

/-- The checksum is below 2^CSLEN (R25). -/
theorem bitsToInt_checksumBits_lt (s : Bits) : bitsToInt (checksumBits s) < 2 ^ (s.length / 32) :=
  (bitsToInt_lt _).trans_le (Nat.pow_le_pow_right (by omega) (by simp))

/-- A ROM word fits `WORD_MAX` under the upper half of R172 (a). -/
theorem romWord_length_le {p : Params} (h : p.wordsFit = true) (i : Index) : (romWord p i).length ≤ p.wordMax := by
  unfold romWord
  by_cases hi : i.toNat < p.wordlist.length
  · rw [List.getD_eq_getElem _ _ hi]
    have hall : ∀ w ∈ p.wordlist, w.length ≤ p.wordMax := by simpa [Params.wordsFit] using h
    exact hall _ (List.getElem_mem hi)
  · rw [List.getD_eq_default _ _ (by omega)]
    exact Nat.zero_le _

/-- k words and the `SP`s between them (R180). -/
theorem joinWords_length_le {p : Params} (h : p.wordsFit = true) (I : List Index) :
    (joinWords p I).length ≤ I.length * p.wordMax + I.length - 1 := by
  induction I using joinWords.induct with
  | case1 => simp
  | case2 i => simpa using romWord_length_le h i
  | case3 i j rest ih =>
    have hw := romWord_length_le h i
    simp only [joinWords_cons_cons, List.length_append, List.length_cons, Nat.add_mul] at ih ⊢
    omega

/-- A buffer that `DERIVE` accepts has at most `NIDX_MAX` indices (R27). -/
theorem deriveIndices_length_le {p : Params} (hp : p.valid = true) {s : Bits} (hs : s.length ≤ p.entMax)
    (h32 : s.length % 32 = 0) : (deriveIndices s).length ≤ p.nidxMax := by
  obtain ⟨-, -, hmax, -⟩ := p.valid_iff.mp hp
  rw [deriveIndices_length, combined_length_of_le s h32 (by omega), Params.nidxMax]
  omega

end Sys2Proof.Machine
end

section
/-! PROOFS of the family 10_state.md, 2: every step keeps the legal states (R43). A block with a good ROM keeps them
operation by operation; in the CFGERR state nothing changes at all. -/

namespace Sys2Proof.Machine

open Sys2Proof

/-- How a command ends: `CLR` clears; any other one ends with `ok` and leaves `ERRS`, or with a code that is neither
`ERR_CONFIG` nor `ERR_ILLEGAL` and sets that code's bit (R211). -/
theorem exec_ends (i : Instr) (s t : State) (h : exec i s = .next t) :
    (i = .clr ∧ t = s.clearAll.ok) ∨
    (i ≠ .clr ∧ t.lastErr = .ok ∧ t.errs = s.errs) ∨
    (i ≠ .clr ∧ ∃ c, c ≠ .config ∧ c ≠ .illegal ∧ t.lastErr = .err c ∧ t.errs = s.errs.set c) := by
  rcases exec_cases i s t h with ⟨rfl, rfl⟩ | ⟨c, rfl, hi, hc⟩ | ⟨rfl, hi, -⟩ | ⟨b, rfl, rfl, -⟩ |
    ⟨b, x, rfl, -, rfl, -⟩ | ⟨b, rfl, -, rfl⟩ | ⟨b, rfl, rfl, -⟩ | ⟨b, rfl, rfl, -⟩ | ⟨rfl, rfl, -⟩ | ⟨rfl, rfl, -⟩ |
    ⟨rfl, rfl, -⟩ | ⟨rfl, rfl, -⟩ | ⟨k, rfl, rfl⟩ | ⟨c, rfl, rfl, hc⟩ | ⟨k, x, rfl, rfl⟩ | ⟨k, x, rfl, rfl⟩
  · exact .inl ⟨rfl, rfl⟩
  · refine .inr (.inr ⟨by rintro rfl; simp at hi, c, ?_, ?_, rfl, rfl⟩) <;> rintro rfl <;> simp at hc
  · exact .inr (.inr ⟨by rintro rfl; simp at hi, .ovf, nofun, nofun, rfl, rfl⟩)
  · exact .inr (.inl ⟨nofun, rfl, rfl⟩)
  · exact .inr (.inl ⟨nofun, rfl, rfl⟩)
  · exact .inr (.inl ⟨nofun, rfl, rfl⟩)
  · exact .inr (.inl ⟨nofun, rfl, rfl⟩)
  · exact .inr (.inr ⟨nofun, .ovf, nofun, nofun, rfl, rfl⟩)
  · exact .inr (.inl ⟨nofun, rfl, rfl⟩)
  · exact .inr (.inl ⟨nofun, rfl, rfl⟩)
  · exact .inr (.inl ⟨nofun, rfl, rfl⟩)
  · exact .inr (.inl ⟨nofun, rfl, rfl⟩)
  · exact .inr (.inl ⟨nofun, rfl, rfl⟩)
  · refine .inr (.inr ⟨nofun, c, ?_, ?_, rfl, rfl⟩) <;> rintro rfl <;> simp at hc
  · exact .inr (.inl ⟨nofun, rfl, rfl⟩)
  · exact .inr (.inl ⟨nofun, rfl, rfl⟩)

/-- Failing with the code that stands in `LASTERR` and in `ERRS` already changes nothing. -/
theorem State.fail_eq_self {s : State} {c : ErrCode} (hl : s.lastErr = .err c) (he : s.errs.get c = true) :
    s.fail c = s := by
  have hset : s.errs.set c = s.errs := Errs.ext_get _ _ fun d => by
    by_cases hd : d = c
    · subst hd; simp [he]
    · simp [hd]
  unfold State.fail
  rw [hset, ← hl]

/-! ### Reset -/

/-- The reset state is legal, with a good ROM or a bad one (R45). -/
theorem legal_resetWith {p : Params} (hp : p.valid = true) (hw : p.wordsFit = true) : Legal (State.resetWith p) where
  params := hp
  words := hw
  buffers := Memory.wf_resetOf p _
  csLen := Nat.zero_le _
  cs := by simp
  checksum := by simp [checksumCurrent]
  entOvf := by simp
  tokOvf := by simp
  cfgErr := rfl
  lastErr c := by
    rw [State.resetWith_lastErr, State.resetWith_errs]
    cases p.wordlist.length != Config.wlSize with
    | false => simp
    | true => rintro ⟨⟩; rfl
  errConfig := rfl
  stuck _ := rfl

namespace Legal

variable {s : State}

/-! ### The host's side and the CFGERR state -/

/-- The host's side bears on no clause. -/
theorem withSide (h : Legal s) (a : List HostAccess) (r : List Word) : Legal (s.withSide a r) :=
  { h with
    stuck := fun hc => by
      have hreset := congrArg (State.withSide a r) (h.stuck hc)
      exact hreset }

/-- In the CFGERR state the refusal of a command changes nothing (R213). -/
theorem fail_config_eq (h : Legal s) (hc : s.cfgErr = true) : s.fail .config = s := by
  have hl : s.lastErr = .err .config := by
    have hreset := congrArg State.lastErr (h.stuck hc)
    simpa [← h.cfgErr, hc] using hreset
  exact State.fail_eq_self hl (h.lastErr _ hl)

/-! ### The operations of a block with a good ROM -/

/-- The clause on the CFGERR state says nothing of a block with a good ROM. -/
theorem stuck_of_good {t : State} (hc : t.cfgErr = false) (ht : t.cfgErr = true) :
    t = { State.resetWith t.params with host := t.host, received := t.received } := by simp [hc] at ht

theorem ok (h : Legal s) (hc : s.cfgErr = false) : Legal s.ok :=
  { h with lastErr := nofun, stuck := stuck_of_good hc }

theorem fail (h : Legal s) (hc : s.cfgErr = false) {c : ErrCode} (hne : c ≠ .config) : Legal (s.fail c) :=
  { h with
    lastErr := fun d hd => by cases hd; simp
    errConfig := by
      have hget : (s.errs.set c).get .config = s.errs.get .config := by simp [hne.symm]
      exact hget.trans h.errConfig
    stuck := stuck_of_good hc }

theorem clearAll_ok (h : Legal s) (hc : s.cfgErr = false) : Legal s.clearAll.ok where
  params := h.params
  words := h.words
  buffers := Memory.wf_clearAll s
  csLen := Nat.zero_le _
  cs := by simp
  checksum := nofun
  entOvf := nofun
  tokOvf := nofun
  cfgErr := h.cfgErr
  lastErr := nofun
  errConfig := hc.symm
  stuck := stuck_of_good hc

/-- Appending bits that fit drops `CSVALID` (R26, R52). -/
theorem appendEnt (h : Legal s) (hc : s.cfgErr = false) {bits : Bits} (hbits : bits ≠ []) (ho : s.entOvf = false)
    (hroom : s.ent.length + bits.length ≤ s.params.entMax) : Legal (s.appendEnt bits) :=
  { h with
    buffers := by
      obtain ⟨-, htok, hidx, hobuf⟩ := h.buffers
      exact ⟨by simpa using hroom, htok, hidx, hobuf⟩
    checksum := by simp [checksumCurrent, hbits]
    entOvf := by simp [ho]
    stuck := stuck_of_good hc }

/-- `ENTOVF` is set only when fewer than 8 more bits fit (R215). -/
theorem setEntOvf (h : Legal s) (hc : s.cfgErr = false) (hfull : s.params.entMax ≤ s.ent.length + 7) :
    Legal s.setEntOvf :=
  { h with entOvf := fun _ => hfull, stuck := stuck_of_good hc }

theorem appendTok (h : Legal s) (hc : s.cfgErr = false) (b : Byte) (hne : s.tok.length ≠ s.params.tokMax) :
    Legal (s.appendTok b) :=
  { h with
    buffers := by
      obtain ⟨hent, htok, hidx, hobuf⟩ := h.buffers
      refine ⟨hent, ?_, hidx, hobuf⟩
      simp only [State.appendTok_tok, List.length_append, List.length_singleton, State.appendTok_params]
      omega
    tokOvf := fun ho => absurd (h.tokOvf ho) hne
    stuck := stuck_of_good hc }

theorem setTokOvf (h : Legal s) (hc : s.cfgErr = false) (hfull : s.tok.length = s.params.tokMax) :
    Legal s.setTokOvf :=
  { h with tokOvf := fun _ => hfull, stuck := stuck_of_good hc }

theorem consumeTok (h : Legal s) (hc : s.cfgErr = false) : Legal s.consumeTok :=
  { h with buffers := Memory.wf_consumeTok s h.buffers, tokOvf := nofun, stuck := stuck_of_good hc }

theorem writeObuf (h : Legal s) (hc : s.cfgErr = false) {bs : Bytes} (hbs : bs.length ≤ s.params.obufSize) :
    Legal (s.writeObuf bs) :=
  { h with buffers := Memory.wf_writeObuf bs s h.buffers hbs, stuck := stuck_of_good hc }

theorem writeIdx (h : Legal s) (hc : s.cfgErr = false) {I : List Index} (hI : I.length ≤ s.params.nidxMax) :
    Legal (s.writeIdx I) :=
  { h with buffers := Memory.wf_writeIdx I s h.buffers hI, stuck := stuck_of_good hc }

theorem writeHash (h : Legal s) (hc : s.cfgErr = false) (hpos : 0 < s.ent.length) (h32 : s.ent.length % 32 = 0) :
    Legal s.writeHash :=
  { h with
    csLen := Nat.div_le_div_right h.buffers.1
    cs := bitsToInt_checksumBits_lt s.ent
    checksum := fun _ => ⟨hpos, h32, rfl, rfl, rfl⟩
    stuck := stuck_of_good hc }

theorem inspectFail (h : Legal s) (hc : s.cfgErr = false) {c : ErrCode} (hne : c ≠ .config) :
    Legal (s.inspectFail c) :=
  have hcleared : Legal { s with insr := Insr.clear, obuf := [] } :=
    { h.writeObuf hc (Nat.zero_le _) with stuck := stuck_of_good hc }
  hcleared.fail hc hne

theorem inspectHit (h : Legal s) (hc : s.cfgErr = false) (k : InspectKind) (x : Index) {text : Bytes}
    (ht : text.length ≤ s.params.obufSize) : Legal (s.inspectHit k x text) :=
  have hhit : Legal { s with insr := { kind := k, index := x }, obuf := text } :=
    { h.writeObuf hc ht with stuck := stuck_of_good hc }
  hhit.ok hc

/-! ### The outputs fit -/

theorem bitsToBytes_fit (h : Legal s) : (bitsToBytes s.ent).length ≤ s.params.obufSize := by
  obtain ⟨h32, -, -, -, -, -, hneed, -⟩ := s.params.valid_iff.mp h.params
  obtain ⟨-, -, hbytes, -, -⟩ := (s.params.obufNeed_le_iff _).mp hneed
  obtain ⟨hent, -, -, -⟩ := h.buffers
  rw [bitsToBytes_length]
  omega

theorem serializeText_fit (h : Legal s) : (serializeText s.ent).length ≤ s.params.obufSize := by
  obtain ⟨-, -, -, -, -, -, hneed, -⟩ := s.params.valid_iff.mp h.params
  obtain ⟨htext, -, -, -, -⟩ := (s.params.obufNeed_le_iff _).mp hneed
  obtain ⟨hent, -, -, -⟩ := h.buffers
  rw [serializeText_length]
  omega

theorem joinWords_fit (h : Legal s) {I : List Index} (hI : I.length ≤ s.params.nidxMax) :
    (joinWords s.params I).length ≤ s.params.obufSize := by
  obtain ⟨-, -, -, -, -, -, hneed, -⟩ := s.params.valid_iff.mp h.params
  obtain ⟨-, hmnemonic, -, -, -⟩ := (s.params.obufNeed_le_iff _).mp hneed
  have hjoin := joinWords_length_le h.words I
  have hwords : I.length * s.params.wordMax ≤ s.params.nidxMax * s.params.wordMax := Nat.mul_le_mul_right _ hI
  omega

theorem romWord_fit (h : Legal s) (i : Index) : (romWord s.params i).length ≤ s.params.obufSize := by
  obtain ⟨-, -, -, -, -, -, hneed, -⟩ := s.params.valid_iff.mp h.params
  obtain ⟨-, -, -, -, hword⟩ := (s.params.obufNeed_le_iff _).mp hneed
  exact (romWord_length_le h.words i).trans hword

theorem bin11_fit (h : Legal s) (i : Index) : (bin11 i).length ≤ s.params.obufSize := by
  obtain ⟨-, -, -, -, -, -, hneed, -⟩ := s.params.valid_iff.mp h.params
  obtain ⟨-, -, -, hdigits, -⟩ := (s.params.obufNeed_le_iff _).mp hneed
  rw [bin11_length]
  exact hdigits

theorem writeMnemonic (h : Legal s) (hc : s.cfgErr = false) (hpos : 0 < s.ent.length) (h32 : s.ent.length % 32 = 0) :
    Legal s.writeMnemonic :=
  have hI : (deriveIndices s.ent).length ≤ s.params.nidxMax := deriveIndices_length_le h.params h.buffers.1 h32
  ((h.writeHash hc hpos h32).writeIdx hc hI).writeObuf hc (h.joinWords_fit hI)

/-! ### Commands and steps -/

/-- Every command of a block with a good ROM keeps the legal states. -/
theorem of_exec {t : State} {i : Instr} (h : Legal s) (hc : s.cfgErr = false) (he : exec i s = .next t) :
    Legal t := by
  rcases exec_cases i s t he with ⟨-, rfl⟩ | ⟨c, rfl, -, hcode⟩ | ⟨rfl, -, hfull⟩ | ⟨b, -, rfl, ho, hroom⟩ |
    ⟨b, x, -, -, rfl, ho, hroom⟩ | ⟨b, -, -, rfl⟩ | ⟨b, -, rfl, hne⟩ | ⟨b, -, rfl, hfull⟩ | ⟨-, rfl, -⟩ | ⟨-, rfl, -⟩ |
    ⟨-, rfl, -, hpos, h32⟩ | ⟨-, rfl, -, hpos, h32⟩ | ⟨k, -, rfl⟩ | ⟨c, -, rfl, hcode⟩ | ⟨k, x, -, rfl⟩ | ⟨k, x, -, rfl⟩
  · exact h.clearAll_ok hc
  · exact h.fail hc (by rintro rfl; simp at hcode)
  · have hfull' : s.params.entMax ≤ s.ent.length + 7 := hfull.elim h.entOvf Nat.le_of_lt_succ
    exact (h.setEntOvf hc hfull').fail hc nofun
  · exact (h.appendEnt hc (List.ne_nil_of_length_eq_add_one (byteBits_length b)) ho (by simpa using hroom)).ok hc
  · exact (h.appendEnt hc (List.cons_ne_nil x []) ho hroom).ok hc
  · exact h.ok hc
  · exact (h.appendTok hc b hne).ok hc
  · exact (h.setTokOvf hc hfull).fail hc nofun
  · exact (h.writeObuf hc h.bitsToBytes_fit).ok hc
  · exact (h.writeObuf hc h.serializeText_fit).ok hc
  · exact (h.writeHash hc hpos h32).ok hc
  · exact (h.writeMnemonic hc hpos h32).ok hc
  · exact (h.writeObuf hc (h.romWord_fit k)).ok hc
  · exact (h.consumeTok hc).inspectFail hc (by rintro rfl; simp at hcode)
  · exact (h.consumeTok hc).inspectHit hc k x (h.romWord_fit x)
  · exact (h.consumeTok hc).inspectHit hc k x (h.bin11_fit x)

/-- Every step keeps the legal states. -/
theorem of_step {t : State} (h : Legal s) (hs : step s = .next t) : Legal t := by
  rcases step_cases s t hs with ⟨-, rfl⟩ | ⟨n, rest, -, rfl⟩ | ⟨n, w, rest, -, -, rfl⟩ | ⟨w, rest, -, hc, rfl⟩ |
    ⟨w, rest, -, hc, -, rfl⟩ | ⟨w, rest, i, -, hc, -, he⟩
  · exact h
  · exact h.withSide rest (regRead (s.withHost rest) n :: s.received)
  · exact h.withSide rest s.received
  · have hrest : Legal (s.withHost rest) := h.withSide rest s.received
    rw [hrest.fail_config_eq hc]
    exact hrest
  · exact (h.withSide rest s.received).fail hc nofun
  · exact (h.withSide rest s.received).of_exec hc he

end Legal

end Sys2Proof.Machine

open Sys2Proof Sys2Proof.Machine

/-- Settles O15: every operation of a block with a good ROM keeps `Legal`, and the CFGERR state changes in nothing but
the host's side. -/
theorem everyStepKeepsLegality : Obligations.EveryStepKeepsLegality := by
  intro s t h hs
  exact h.of_step hs

/-- Settles O16, clause by clause of `Legal`. -/
theorem resetStateIsLegal : Obligations.ResetStateIsLegal := by
  intro p hp hw
  exact legal_resetWith hp hw
end

section
/-! PROOFS of the family 10_state.md, 3: the words `STATUS` and `INSR` and the register map (R39 to R41), window by
window, and what the registers read at reset (R45). -/

namespace Sys2Proof.Machine

open Sys2Proof

/-! ### The words `STATUS` and `INSR` -/

/-- The low bit of `x ++ b` is b, the bits above are those of x. -/
theorem getLsbD_append_ofBool {n : Nat} (x : BitVec n) (b : Bool) (i : Nat) :
    (x ++ BitVec.ofBool b).getLsbD i = if i = 0 then b else x.getLsbD (i - 1) := by
  rw [BitVec.getLsbD_append, BitVec.getLsbD_ofBool]
  cases i <;> simp

/-- Bit c - 1 of the field `ERRS` is `ERRS[c]` (R31, R41). -/
theorem Errs.bits_getLsbD (e : Errs) (c : ErrCode) : e.bits.getLsbD (c.num - 1) = e.get c := by
  show (BitVec.ofBool e.lookup ++ BitVec.ofBool e.range ++ BitVec.ofBool e.len ++ BitVec.ofBool e.empty ++
    BitVec.ofBool e.ovf ++ BitVec.ofBool e.illegal ++ BitVec.ofBool e.config).getLsbD (c.num - 1) = e.get c
  simp only [getLsbD_append_ofBool, BitVec.getLsbD_ofBool]
  cases c <;> rfl

/-- Bits 3:0 of `STATUS` are `LASTERR`. -/
theorem statusWord_lastErr (s : State) : (statusWord s).extractLsb' 0 4 = s.lastErr.bits := by
  ext i hi
  show (BitVec.extractLsb' 0 4 (0#16 ++ s.errs.bits ++ 0#1 ++ BitVec.ofBool s.csValid ++ BitVec.ofBool s.tokOvf ++
    BitVec.ofBool s.entOvf ++ BitVec.ofBool s.cfgErr ++ s.lastErr.bits))[i] = _
  rw [BitVec.getElem_extractLsb', Nat.zero_add, BitVec.getLsbD_append, if_pos hi, BitVec.getLsbD_eq_getElem hi]

/-- The bits of `STATUS` above `LASTERR`, from bit 4 up (R41). -/
theorem statusWord_getLsbD (s : State) (j : Nat) :
    (statusWord s).getLsbD (4 + j) =
      if j = 0 then s.cfgErr else if j = 1 then s.entOvf else if j = 2 then s.tokOvf
      else if j = 3 then s.csValid else if j = 4 then false else s.errs.bits.getLsbD (j - 5) := by
  show (0#16 ++ s.errs.bits ++ BitVec.ofBool false ++ BitVec.ofBool s.csValid ++ BitVec.ofBool s.tokOvf ++
    BitVec.ofBool s.entOvf ++ BitVec.ofBool s.cfgErr ++ s.lastErr.bits).getLsbD (4 + j) = _
  rw [BitVec.getLsbD_append, if_neg (by omega), Nat.add_sub_cancel_left]
  simp only [getLsbD_append_ofBool]
  rcases j with _ | _ | _ | _ | _ | k
  iterate 5 rfl
  show (0#16 ++ s.errs.bits).getLsbD k = s.errs.bits.getLsbD k
  rw [BitVec.getLsbD_append, BitVec.getLsbD_zero]
  split
  · rfl
  · rw [BitVec.getLsbD_of_ge _ _ (by omega)]

/-- Bit 8 + c of `STATUS` is `ERRS[c]`. -/
theorem statusWord_errs (s : State) (c : ErrCode) : (statusWord s).getLsbD (8 + c.num) = s.errs.get c := by
  have hnum : 8 + c.num = 4 + (c.num - 1 + 5) := by cases c <;> rfl
  rw [hnum, statusWord_getLsbD]
  iterate 5 rw [if_neg (by omega)]
  exact s.errs.bits_getLsbD c

/-- Bits 31:16 of `STATUS` are 0. -/
theorem statusWord_reserved (s : State) : (statusWord s).extractLsb' 16 16 = 0 := by
  ext i hi
  have hbit : 16 + i = 4 + (i + 7 + 5) := by omega
  rw [BitVec.getElem_extractLsb', hbit, statusWord_getLsbD]
  iterate 5 rw [if_neg (by omega)]
  simp

/-- `INSR` bit by bit (R40): INDEX from bit 0, KIND from bit 16. -/
theorem insrWord_getLsbD (r : Insr) (i : Nat) :
    (insrWord r).getLsbD i =
      if i < 11 then r.index.getLsbD i else if i < 16 then false else r.kind.bits.getLsbD (i - 16) := by
  show (0#14 ++ r.kind.bits ++ 0#5 ++ r.index).getLsbD i = _
  rw [BitVec.getLsbD_append, BitVec.getLsbD_append, BitVec.getLsbD_append]
  simp only [BitVec.getLsbD_zero]
  grind

/-- The fields of `INSR` (R40): INDEX in bits 10:0, KIND in bits 17:16, the others 0. -/
theorem insrWord_fields (r : Insr) :
    (insrWord r).extractLsb' 0 11 = r.index ∧ (insrWord r).extractLsb' 16 2 = r.kind.bits ∧
      (insrWord r).extractLsb' 11 5 = 0 ∧ (insrWord r).extractLsb' 18 14 = 0 := by
  refine ⟨?_, ?_, ?_, ?_⟩ <;> ext i hi <;> rw [BitVec.getElem_extractLsb', insrWord_getLsbD]
  · simp [hi]
  · simp [hi, show ¬16 + i < 11 by omega]
  · simp [show 11 + i < 16 by omega]
  · simp [show ¬18 + i < 11 by omega, show ¬18 + i < 16 by omega, show 2 ≤ 18 + i - 16 by omega]

/-! ### The windows of the register map -/

/-- The registers above the digest: the index window, the output window, and nothing else. -/
theorem regRead_of_ge (s : State) (n : RegNum) (h : 0x010 ≤ n.toNat) :
    regRead s n =
      if 0x040 ≤ n.toNat ∧ n.toNat < 0x040 + s.params.nidxMax then readIdx s (n.toNat - 0x040)
      else if 0x100 ≤ n.toNat ∧ n.toNat < 0x100 + s.params.obufSize then readObuf s (n.toNat - 0x100)
      else 0 := by
  unfold regRead
  iterate 9 rw [if_neg (by omega)]
  rfl

theorem regRead_digest (s : State) (n : RegNum) (h : 0x008 ≤ n.toNat) (h' : n.toNat < 0x010) :
    regRead s n = s.digest.get (n.toNat - 0x008) := by
  unfold regRead
  iterate 8 rw [if_neg (by omega)]
  rw [if_pos h']

theorem regRead_idx (s : State) {k : Nat} (hk : k < s.params.nidxMax) (hfit : k < 0xFC0) :
    regRead s (BitVec.ofNat 12 (0x040 + k)) = readIdx s k := by
  have hn : (BitVec.ofNat 12 (0x040 + k)).toNat = 0x040 + k := by rw [BitVec.toNat_ofNat]; omega
  rw [regRead_of_ge s _ (by omega), hn, if_pos (by omega), Nat.add_sub_cancel_left]

theorem regRead_obuf (s : State) {i : Nat} (hidx : s.params.nidxMax ≤ 0x0C0) (hi : i < s.params.obufSize)
    (hfit : i < 0xF00) : regRead s (BitVec.ofNat 12 (0x100 + i)) = readObuf s i := by
  have hn : (BitVec.ofNat 12 (0x100 + i)).toNat = 0x100 + i := by rw [BitVec.toNat_ofNat]; omega
  rw [regRead_of_ge s _ (by omega), hn, if_neg (by omega), if_pos (by omega), Nat.add_sub_cancel_left]

theorem regRead_unmapped (s : State) (n : RegNum) (h : 0x010 ≤ n.toNat)
    (hidx : ¬(0x040 ≤ n.toNat ∧ n.toNat < 0x040 + s.params.nidxMax))
    (hobuf : ¬(0x100 ≤ n.toNat ∧ n.toNat < 0x100 + s.params.obufSize)) : regRead s n = 0 := by
  rw [regRead_of_ge s n h, if_neg hidx, if_neg hobuf]

/-- An entry of a buffer read through `zext_32`: the entry, or 0 beyond the current length. -/
theorem getD_setWidth_toNat {w : Nat} (hw : w ≤ 32) (l : List (BitVec w)) (k : Nat) :
    ((l.getD k 0).setWidth 32).toNat = if h : k < l.length then l[k].toNat else 0 := by
  rw [BitVec.toNat_setWidth_of_le hw]
  split
  · next h => rw [List.getD_eq_getElem _ _ h]
  · next h => rw [List.getD_eq_default _ _ (by omega)]; rfl

/-- `DIGESTj` is word j of the digest. -/
theorem Hash8.words_getElem? (H : Hash8) {j : Nat} (hj : j < 8) : H.words[j]? = some (H.get j) := by
  interval_cases j <;> rfl

theorem regRead_digest_words (s : State) {j : Nat} (hj : j < 8) :
    some (regRead s (BitVec.ofNat 12 (0x008 + j))) = s.digest.words[j]? := by
  have hn : (BitVec.ofNat 12 (0x008 + j)).toNat = 0x008 + j := by rw [BitVec.toNat_ofNat]; omega
  rw [regRead_digest s _ (by omega) (by omega), hn, Nat.add_sub_cancel_left, Hash8.words_getElem? _ hj]

@[simp] theorem Hash8.zero_get (j : Nat) : Hash8.zero.get j = 0 := by
  unfold Hash8.get
  split <;> rfl

@[simp] theorem insrWord_clear : insrWord Insr.clear = 0 := by decide

/-- At reset every register but `STATUS` reads 0 (R45). -/
theorem regRead_resetWith (p : Params) (n : RegNum) (hn : n ≠ 0x000) : regRead (State.resetWith p) n = 0 := by
  have hn0 : n.toNat ≠ 0 := fun h => hn (BitVec.eq_of_toNat_eq h)
  simp [regRead, hn0, readIdx, readObuf]

/-- `STATUS` at reset (R41, R45), by whether the ROM is bad. -/
theorem statusWord_resetWith (p : Params) :
    statusWord (State.resetWith p) = if p.wordlist.length != Config.wlSize then 0x00000211 else 0x00000000 := by
  unfold statusWord
  simp only [State.resetWith_lastErr, State.resetWith_errs, State.resetWith_cfgErr, State.resetWith_entOvf,
    State.resetWith_tokOvf, State.resetWith_csValid]
  cases p.wordlist.length != Config.wlSize <;> decide

/-! ### The register map of a legal state -/

namespace Legal

variable {s : State}

/-- The index window ends well before the output window. -/
theorem nidxMax_le (h : Legal s) : s.params.nidxMax ≤ 0x060 := by
  obtain ⟨-, -, hmax, -⟩ := s.params.valid_iff.mp h.params
  unfold Params.nidxMax
  omega

/-- `CSLEN` of a legal state is at most 32 (R43). -/
theorem csLen_le (h : Legal s) : s.csLen ≤ 32 := by
  obtain ⟨-, -, hmax, -⟩ := s.params.valid_iff.mp h.params
  have hcs := h.csLen
  unfold Params.csMax at hcs
  omega

/-- The numbers a legal state's registers hold fit 32 bits, `TOKLEN` apart. -/
theorem numbers_fit (h : Legal s) :
    s.ent.length < 2 ^ 32 ∧ s.csLen < 2 ^ 32 ∧ s.cs < 2 ^ 32 ∧ s.idx.length < 2 ^ 32 ∧ s.obuf.length < 2 ^ 32 := by
  obtain ⟨-, -, hmax, -, -, -, -, hsize⟩ := s.params.valid_iff.mp h.params
  obtain ⟨hent, -, hidx, hobuf⟩ := h.buffers
  have hnidx := h.nidxMax_le
  have hcsLen := h.csLen_le
  have hpow : 2 ^ s.csLen ≤ 2 ^ 32 := Nat.pow_le_pow_right (by omega) hcsLen
  exact ⟨by omega, by omega, h.cs.trans_le hpow, by omega, by omega⟩

theorem regRead_idx_toNat (h : Legal s) {k : Nat} (hk : k < s.params.nidxMax) :
    (regRead s (BitVec.ofNat 12 (0x040 + k))).toNat = if h : k < s.idx.length then s.idx[k].toNat else 0 := by
  have hnidx := h.nidxMax_le
  rw [regRead_idx s hk (by omega)]
  exact getD_setWidth_toNat (by omega) s.idx k

theorem regRead_obuf_toNat (h : Legal s) {i : Nat} (hi : i < s.params.obufSize) :
    (regRead s (BitVec.ofNat 12 (0x100 + i))).toNat = if h : i < s.obuf.length then s.obuf[i].toNat else 0 := by
  obtain ⟨-, -, -, -, -, -, -, hsize⟩ := s.params.valid_iff.mp h.params
  have hnidx := h.nidxMax_le
  rw [regRead_obuf s (by omega) hi (by omega)]
  exact getD_setWidth_toNat (by omega) s.obuf i

theorem regRead_elsewhere (h : Legal s) {n : RegNum}
    (hn : (0x010 < n.toNat ∧ n.toNat < 0x040) ∨ (0x040 + s.params.nidxMax ≤ n.toNat ∧ n.toNat < 0x100) ∨
      0x100 + s.params.obufSize ≤ n.toNat) : regRead s n = 0 := by
  have hnidx := h.nidxMax_le
  exact regRead_unmapped s n (by omega) (by omega) (by omega)

end Legal

end Sys2Proof.Machine

open Sys2Proof Sys2Proof.Machine

/-- Settles O2: each window by its own lemma; the two other accesses by the step's equations. -/
theorem registerMapReadsAsTabulated : Obligations.RegisterMapReadsAsTabulated := by
  refine ⟨fun s h => ?_, fun s n rest hh => step_of_read s n rest hh,
    fun s n w rest hn hh => step_of_other_write s n w rest hn hh⟩
  obtain ⟨hent, hcsLen, hcs, hidx, hobuf⟩ := h.numbers_fit
  obtain ⟨hindex, hkind, hmid, hhigh⟩ := insrWord_fields s.insr
  refine ⟨rfl, zext32_toNat hent, zext32_toNat hcsLen, zext32_toNat hcs, zext32_toNat hidx, zext32_toNat hobuf,
    zext32_toNat, hindex, ?_, hmid, hhigh, fun j hj => regRead_digest_words s hj, ?_,
    fun k hk => h.regRead_idx_toNat hk, fun i hi => h.regRead_obuf_toNat hi, fun n hn => h.regRead_elsewhere hn⟩
  · refine hkind.trans ?_
    cases s.insr.kind <;> rfl
  · exact regRead_unmapped s 0x010 (by decide) (by simp) (by simp)

/-- Settles O3: the fields of `STATUS` by their bits, the word at reset by evaluation. -/
theorem statusFieldsStandWhereTabulated : Obligations.StatusFieldsStandWhereTabulated := by
  refine ⟨fun s => ⟨statusWord_lastErr s, statusWord_getLsbD s 0, statusWord_getLsbD s 1, statusWord_getLsbD s 2,
    statusWord_getLsbD s 3, statusWord_getLsbD s 4, statusWord_errs s, statusWord_reserved s⟩, fun p => ?_⟩
  rw [statusWord_resetWith]
  by_cases hlen : p.wordlist.length = 2048 <;> simp [Config.wlSize, hlen]

/-- Settles O1: the state by the fields of `resetWith`, the registers by `regRead_resetWith`. -/
theorem resetStateOfEveryRomImage : Obligations.ResetStateOfEveryRomImage := by
  intro p
  refine ⟨rfl, rfl, rfl, rfl, rfl, rfl, rfl, rfl, rfl, rfl, rfl, rfl, rfl, rfl, rfl, ?_, statusWord_resetWith p,
    regRead_resetWith p⟩
  intro c
  cases c <;> simp [State.resetWith_errs, Errs.get, Errs.clear, Config.wlSize]

/-- Settles O4, code by code and kind by kind. -/
theorem codesAndKindsAreNumberedAsTabulated : Obligations.CodesAndKindsAreNumberedAsTabulated := by
  refine ⟨rfl, rfl, rfl, rfl, rfl, rfl, rfl, rfl, fun r => ?_, rfl, rfl, rfl, fun k => ?_⟩
  · rcases r with _ | c
    · decide
    · cases c <;> decide
  · cases k <;> decide
end

section
/-! PROOFS of the family 10_state.md, 4: what a step and a command may write (R31 to R33, R44). -/

namespace Sys2Proof

/-- The one word of `CLR` (R72, R76). -/
theorem decode_eq_clr_iff (w : Word) : decode w = .ok .clr ↔ w = 0x01000000 := by
  constructor
  · intro h
    unfold decode at h
    split at h
    case h_1 hop =>
      obtain ⟨hres, -⟩ := (acceptFormat_ok_iff _ _ _ _).mp h
      have hhigh : w.toNat / 2 ^ 24 % 2 ^ 8 = 1 := by
        simpa [opcodeField, Nat.shiftRight_eq_div_pow] using hop
      have hlow : w.toNat % 2 ^ 24 = 0 := by
        simpa [reservedZero] using congrArg BitVec.toNat (beq_iff_eq.mp hres)
      apply BitVec.eq_of_toNat_eq
      have hw : w.toNat < 2 ^ 32 := w.isLt
      show w.toNat = 0x01000000
      omega
    all_goals simp at h
  · rintro rfl
    decide

end Sys2Proof

namespace Sys2Proof.Machine

open Sys2Proof

@[simp] theorem ResultCode.err_beq_err (c d : ErrCode) : (ResultCode.err d == ResultCode.err c) = (c == d) := by
  rw [Bool.eq_iff_iff, beq_iff_eq, beq_iff_eq, ResultCode.err.injEq]
  exact eq_comm

/-- `ERRS[c]` after a failure is set by code c or was set before. -/
theorem State.fail_errs_get (s : State) (c d : ErrCode) :
    (s.fail d).errs.get c = (s.errs.get c || (s.fail d).lastErr == .err c) := by simp

/-- `ERRS[c]` after a command: `CLR` clears it, any other command sets it if it ends with code c (R31). -/
theorem exec_errs_get (i : Instr) (s t : State) (c : ErrCode) (h : exec i s = .next t) :
    t.errs.get c = if i = .clr then false else s.errs.get c || t.lastErr == .err c := by
  rcases exec_ends i s t h with ⟨rfl, rfl⟩ | ⟨hi, hl, he⟩ | ⟨hi, d, -, -, hl, he⟩
  · simp
  · simp [hi, hl, he]
  · simp [hi, hl, he]

/-- `ERRS[c]` after a write of `CMD`: cleared by an executed `CLR` only (R31). -/
theorem cmdWrite_errs_get (w : Word) (s t : State) (c : ErrCode) (h : cmdWrite w s = .next t) :
    t.errs.get c = if w = 0x01000000 ∧ s.cfgErr = false then false else s.errs.get c || t.lastErr == .err c := by
  rcases cmdWrite_cases w s with ⟨hc, hw⟩ | ⟨hc, ⟨e, hd⟩, hw⟩ | ⟨hc, i, hd, hw⟩ <;> rw [hw] at h
  · cases h
    rw [if_neg fun hclr => by simp [hc] at hclr, State.fail_errs_get]
  · cases h
    have hclr : w ≠ 0x01000000 := fun hw => by simp [(decode_eq_clr_iff w).mpr hw] at hd
    rw [if_neg fun h => hclr h.1, State.fail_errs_get]
  · have hclr : w = 0x01000000 ↔ i = .clr := by rw [← decode_eq_clr_iff, hd]; simp
    simp only [exec_errs_get i s t c h, hclr, hc, and_true]

end Sys2Proof.Machine

open Sys2Proof Sys2Proof.Machine

/-- Settles O14: commands by `exec_frame`, every other access by what it is. -/
theorem parametersAndCfgErrAreConstant : Obligations.ParametersAndCfgErrAreConstant := by
  intro s t hs
  rcases step_cases s t hs with ⟨-, rfl⟩ | ⟨n, rest, -, rfl⟩ | ⟨n, w, rest, -, -, rfl⟩ | ⟨w, rest, -, -, rfl⟩ |
    ⟨w, rest, -, -, -, rfl⟩ | ⟨w, rest, i, -, -, -, he⟩
  iterate 5 exact ⟨rfl, rfl⟩
  obtain ⟨hparams, hcfg, -, -⟩ := exec_frame i _ t he
  exact ⟨hparams, hcfg⟩

/-- Settles O17: a command by `cmdWrite_errs_get`; `ERRS[1]` equals the constant `CFGERR` in every legal state. -/
theorem errorBitsAreSticky : Obligations.ErrorBitsAreSticky := by
  refine ⟨fun s t w rest c hh hs => ?_, fun s t hno hs => ?_, fun s t h hs => ?_, fun p c => ?_⟩
  · rw [step_of_cmd_write s w rest hh] at hs
    exact cmdWrite_errs_get w (s.withHost rest) t c hs
  · rcases step_cases s t hs with ⟨-, rfl⟩ | ⟨n, rest, -, rfl⟩ | ⟨n, w, rest, -, -, rfl⟩ | ⟨w, rest, hh, -⟩ |
      ⟨w, rest, hh, -⟩ | ⟨w, rest, i, hh, -⟩
    iterate 3 exact ⟨rfl, rfl⟩
    all_goals exact absurd hh (hno w rest)
  · obtain ⟨-, hcfg⟩ := parametersAndCfgErrAreConstant s t hs
    calc t.errs.config = t.cfgErr := (h.of_step hs).errConfig
      _ = s.cfgErr := hcfg
      _ = s.errs.config := h.errConfig.symm
  · cases c <;> simp [Errs.get, Errs.clear, Config.wlSize]

/-- Settles O19: every way a command can end, against the columns of R44. -/
theorem writeSetsAreAsTabulated : Obligations.WriteSetsAreAsTabulated := by
  intro i s t h
  rcases exec_cases i s t h with ⟨rfl, rfl⟩ | ⟨c, rfl, hi, -⟩ | ⟨rfl, hi, -⟩ | ⟨b, rfl, rfl, -⟩ |
    ⟨b, x, rfl, -, rfl, -⟩ | ⟨b, rfl, -, rfl⟩ | ⟨b, rfl, rfl, -⟩ | ⟨b, rfl, rfl, -⟩ | ⟨rfl, rfl, -⟩ | ⟨rfl, rfl, -⟩ |
    ⟨rfl, rfl, -⟩ | ⟨rfl, rfl, -⟩ | ⟨k, rfl, rfl⟩ | ⟨c, rfl, rfl, -⟩ | ⟨k, x, rfl, rfl⟩ | ⟨k, x, rfl, rfl⟩
  · simp
  · have hlookup : ∀ k, i ≠ .lookup k := by rintro k rfl; simp at hi
    simp [hlookup]
  · rcases hi with ⟨b, rfl⟩ | ⟨b, rfl⟩ <;> simp
  all_goals simp [State.writeMnemonic]

end

section
/-! PROOFS of the family 20_memory.md: a producer said twice is the producer said once (R60). Each check reads `ENT` and
`ENTOVF` only, which no producer writes, so the second command ends as the first one did. -/

namespace Sys2Proof.Machine

open Sys2Proof

/-! ### Ending twice the same way -/

@[simp] theorem Errs.set_set (e : Errs) (c : ErrCode) : (e.set c).set c = e.set c := by cases c <;> rfl

@[simp] theorem State.fail_fail (c : ErrCode) (s : State) : (s.fail c).fail c = s.fail c := by simp [State.fail]

/-- A checked body that keeps `ENTOVF` and is itself idempotent at s. -/
theorem State.unlessOverflowed_twice {s : State} {body : State → State} (hovf : (body s).entOvf = s.entOvf)
    (hbody : body (body s) = body s) :
    (s.unlessOverflowed body).unlessOverflowed body = s.unlessOverflowed body := by
  rcases s.unlessOverflowed_cases body with ⟨ho, h⟩ | ⟨ho, h⟩ <;> rw [h]
  · simp [State.unlessOverflowed, ho]
  · simp [State.unlessOverflowed, ho, hovf, hbody]

/-- A checked body that keeps `ENT` and `ENTOVF` and is itself idempotent at s. -/
theorem State.ifDerivable_twice {s : State} {body : State → State} (hovf : (body s).entOvf = s.entOvf)
    (hent : (body s).ent = s.ent) (hbody : body (body s) = body s) :
    (s.ifDerivable body).ifDerivable body = s.ifDerivable body := by
  rcases s.ifDerivable_cases body with ⟨ho, h⟩ | ⟨ho, h0, h⟩ | ⟨ho, hpos, h32, h⟩ | ⟨ho, hpos, h32, h⟩ <;> rw [h]
  · simp [State.ifDerivable, ho]
  · simp [State.ifDerivable, ho, h0]
  · simp [State.ifDerivable, ho, hpos.ne', h32]
  · simp [State.ifDerivable, ho, hpos.ne', h32, hovf, hent, hbody]

/-- A command whose effect is an idempotent function answers, at its own answer, that answer again. -/
theorem exec_answer_of_idempotent {i : Instr} {f : State → State} {s t : State} (hexec : ∀ s, exec i s = .next (f s))
    (hf : ∀ s, f (f s) = f s) (h : exec i s = .next t) : exec i t = .next t := by
  rw [hexec] at h
  cases h
  rw [hexec, hf]

end Sys2Proof.Machine

open Sys2Proof Sys2Proof.Machine

/-- Settles O20: the checked producers by `unlessOverflowed_twice` and `ifDerivable_twice`; `LOOKUP` has no check. -/
theorem producersAreIdempotent : Obligations.ProducersAreIdempotent := by
  intro i s t hi h
  simp only [List.mem_cons, List.not_mem_nil, or_false] at hi
  rcases hi with (rfl | rfl | rfl | rfl) | ⟨k, rfl⟩
  · exact exec_answer_of_idempotent exec_pack (fun _ => State.unlessOverflowed_twice rfl rfl) h
  · exact exec_answer_of_idempotent exec_serial (fun _ => State.unlessOverflowed_twice rfl rfl) h
  · exact exec_answer_of_idempotent exec_csum (fun _ => State.ifDerivable_twice rfl rfl rfl) h
  · exact exec_answer_of_idempotent exec_derive (fun _ => State.ifDerivable_twice rfl rfl rfl) h
  · exact exec_answer_of_idempotent (exec_lookup k) (fun _ => rfl) h

end

section
/-! PROOFS of the family 30_encoding.md, 1: the fields of a word, and decoder and encoder as inverses (R71 to R76). A
word is some command's exactly when its opcode is the command's, its reserved bits are 0 and its immediate is the command's. -/

namespace Sys2Proof

/-! ### The fields of a word, as numbers -/

theorem eq_opcodeField_iff (o : BitVec 8) (w : Word) : o = opcodeField w ↔ o.toNat = w.toNat / 2 ^ 24 := by
  have hw : w.toNat < 2 ^ 32 := w.isLt
  simp only [← BitVec.toNat_inj, opcodeField, BitVec.extractLsb'_toNat, Nat.shiftRight_eq_div_pow]
  omega

/-- How many low bits of a word a format leaves to the immediate (R72, R73, R74). -/
@[simp] def Format.immediateWidth : Format → Nat
  | .n => 0
  | .b => 8
  | .x => 11

theorem reservedZero_iff (f : Format) (w : Word) :
    reservedZero f w = true ↔ w.toNat % 2 ^ 24 < 2 ^ f.immediateWidth := by
  cases f <;>
    simp only [reservedZero, beq_iff_eq, ← BitVec.toNat_inj, BitVec.extractLsb'_toNat, Nat.shiftRight_eq_div_pow,
      BitVec.ofNat_eq_ofNat, BitVec.toNat_ofNat, Format.immediateWidth] <;> omega

theorem eq_imm8Field_iff (b : BitVec 8) (w : Word) : b = imm8Field w ↔ b.toNat = w.toNat % 2 ^ 8 := by
  simp [← BitVec.toNat_inj, imm8Field]

theorem eq_imm11Field_iff (k : BitVec 11) (w : Word) : k = imm11Field w ↔ k.toNat = w.toNat % 2 ^ 11 := by
  simp [← BitVec.toNat_inj, imm11Field]

/-! ### The words of the three formats (R72, R73, R74) -/

theorem formatN_toNat (o : BitVec 8) : (formatN o).toNat = o.toNat * 2 ^ 24 := by
  rw [formatN, BitVec.toNat_append, BitVec.toNat_zero, Nat.or_zero, Nat.shiftLeft_eq]

theorem formatB_toNat (o b : BitVec 8) : (formatB o b).toNat = o.toNat * 2 ^ 24 + b.toNat := by
  rw [formatB, BitVec.toNat_append, ← Nat.shiftLeft_add_eq_or_of_lt b.isLt]
  simp only [BitVec.toNat_append, BitVec.toNat_ofNat, Nat.shiftLeft_eq, Nat.zero_mod, Nat.or_zero]
  omega

theorem formatX_toNat (o : BitVec 8) (k : BitVec 11) : (formatX o k).toNat = o.toNat * 2 ^ 24 + k.toNat := by
  rw [formatX, BitVec.toNat_append, ← Nat.shiftLeft_add_eq_or_of_lt k.isLt]
  simp only [BitVec.toNat_append, BitVec.toNat_ofNat, Nat.shiftLeft_eq, Nat.zero_mod, Nat.or_zero]
  omega

theorem formatN_eq_iff (o : BitVec 8) (w : Word) :
    formatN o = w ↔ o = opcodeField w ∧ reservedZero .n w = true := by
  rw [eq_opcodeField_iff, reservedZero_iff, ← BitVec.toNat_inj, formatN_toNat, Format.immediateWidth]
  omega

theorem formatB_eq_iff (o b : BitVec 8) (w : Word) :
    formatB o b = w ↔ o = opcodeField w ∧ reservedZero .b w = true ∧ b = imm8Field w := by
  rw [eq_opcodeField_iff, reservedZero_iff, eq_imm8Field_iff, ← BitVec.toNat_inj, formatB_toNat,
    Format.immediateWidth]
  omega

theorem formatX_eq_iff (o : BitVec 8) (k : BitVec 11) (w : Word) :
    formatX o k = w ↔ o = opcodeField w ∧ reservedZero .x w = true ∧ k = imm11Field w := by
  rw [eq_opcodeField_iff, reservedZero_iff, eq_imm11Field_iff, ← BitVec.toNat_inj, formatX_toNat,
    Format.immediateWidth]
  omega

/-! ### A command and its word -/

/-- The command with the immediate its format reads from w (R73, R74). -/
def Instr.readImmediate (w : Word) : Instr → Instr
  | .pushb _ => .pushb (imm8Field w)
  | .pusht _ => .pusht (imm8Field w)
  | .pushk _ => .pushk (imm8Field w)
  | .lookup _ => .lookup (imm11Field w)
  | i => i

theorem encode_eq_iff (i : Instr) (w : Word) :
    encode i = w ↔ i.opcode = opcodeField w ∧ reservedZero i.format w = true ∧ i = i.readImmediate w := by
  have himm {p q r r' : Prop} (h : r' ↔ r) : p ∧ q ∧ r ↔ p ∧ q ∧ r' := by rw [h]
  cases i with
  | pushb b => exact (formatB_eq_iff _ b w).trans (himm (.of_eq (Instr.pushb.injEq ..)))
  | pusht b => exact (formatB_eq_iff _ b w).trans (himm (.of_eq (Instr.pusht.injEq ..)))
  | pushk b => exact (formatB_eq_iff _ b w).trans (himm (.of_eq (Instr.pushk.injEq ..)))
  | lookup k => exact (formatX_eq_iff _ k w).trans (himm (.of_eq (Instr.lookup.injEq ..)))
  | _ => exact (formatN_eq_iff _ w).trans (and_congr_right' (and_iff_left rfl).symm)

/-- Every arm of the decoder: the opcode, the reserved bits and the immediate are the command's (R77). -/
theorem decode_eq_ok_iff (w : Word) (i : Instr) :
    decode w = .ok i ↔ i.opcode = opcodeField w ∧ reservedZero i.format w = true ∧ i = i.readImmediate w := by
  constructor
  · intro h
    unfold decode at h
    split at h
    case h_11 => cases h
    all_goals
      rename_i hop
      obtain ⟨hres, rfl⟩ := (acceptFormat_ok_iff _ _ _ _).mp h
      exact ⟨BitVec.eq_of_toNat_eq hop.symm, hres, rfl⟩
  · rintro ⟨hop, hres, himm⟩
    rw [decode, ← hop, himm]
    cases i <;> simpa [Instr.opcode, Instr.format, Instr.readImmediate] using hres

/-- Every command's word is legal and stands for the command. -/
@[simp] theorem decode_encode (i : Instr) : decode (encode i) = .ok i :=
  (decode_eq_ok_iff _ _).mpr ((encode_eq_iff i _).mp rfl)

theorem encode_injective : Function.Injective encode := by
  intro i j h
  have hd := decode_encode i
  rw [h, decode_encode] at hd
  exact (Except.ok.inj hd).symm

/-- The word is the opcode above the immediate (R79). -/
theorem encode_toNat (i : Instr) : (encode i).toNat = i.opcode.toNat * 2 ^ 24 + i.immediate.getD 0 := by
  cases i with
  | pushb b => exact formatB_toNat _ b
  | pusht b => exact formatB_toNat _ b
  | pushk b => exact formatB_toNat _ b
  | lookup k => exact formatX_toNat _ k
  | _ => exact formatN_toNat _

end Sys2Proof

open Sys2Proof

/-- Settles O5: both sides say that opcode, reserved bits and immediate of the word are the command's. -/
theorem decodeAndEncodeAreInverse : Obligations.DecodeAndEncodeAreInverse := by
  intro w i
  rw [decode_eq_ok_iff, encode_eq_iff]

/-- Settles O9, word by word. -/
theorem exampleWordsDecodeAsListed : Obligations.ExampleWordsDecodeAsListed := by
  have hillegal : [0x00000000#32, 0x01000001#32, 0x10000100#32, 0x40000800#32, 0x02000000#32, 0x42000000#32,
      0xFFFFFFFF#32].all (fun w => (decode w).toOption.isNone) = true := by decide
  refine ⟨by decide, by decide, by decide, by decide, by decide, by decide, by decide, by decide, by decide, by decide,
    by decide, by decide, by decide, by decide, by decide, fun w hw i h => ?_⟩
  have hnone := List.all_eq_true.mp hillegal w hw
  rw [h] at hnone
  cases hnone
end

section
/-! PROOFS of the family 30_encoding.md, 2: the three ends of `CmdWrite`, one equation each (R70). -/

namespace Sys2Proof.Machine

open Sys2Proof

theorem cmdWrite_of_cfgErr {w : Word} {s : State} (hc : s.cfgErr = true) : cmdWrite w s = .next (s.fail .config) := by
  simp [cmdWrite, hc]

theorem cmdWrite_of_error {w : Word} {s : State} {e : DecodeError} (hc : s.cfgErr = false) (hd : decode w = .error e) :
    cmdWrite w s = .next (s.fail .illegal) := by
  simp [cmdWrite, hc, hd]

theorem cmdWrite_of_ok {w : Word} {s : State} {i : Instr} (hc : s.cfgErr = false) (hd : decode w = .ok i) :
    cmdWrite w s = exec i s := by
  simp [cmdWrite, hc, hd]

end Sys2Proof.Machine

open Sys2Proof Sys2Proof.Machine

/-- Settles O11: the step is `CmdWrite` of the word, in R70's order. -/
theorem stepExecutesTheDecodedCommand : Obligations.StepExecutesTheDecodedCommand := by
  intro s w rest hh
  rw [step_of_cmd_write s w rest hh]
  exact ⟨fun hc => cmdWrite_of_cfgErr hc, fun e hc hd => cmdWrite_of_error hc hd, fun i hc hd => cmdWrite_of_ok hc hd⟩
end

section
/-! PROOFS of the family 30_encoding.md, 3: the opcode table (R76), the legal words (R78) and the illegal ones (R77).
The table's rows are the ten mnemonics' own; a row's mask and match test the opcode and the reserved bits of its format. -/

namespace Sys2Proof

/-! ### The table, row by row -/

/-- One command of each mnemonic, in the order of R76. -/
def sampleCommands : List Instr :=
  [.clr, .pushb 0, .pusht 0, .pushk 0, .pack, .serial, .csum, .derive, .lookup 0, .inspect]

/-- The bits of a word that a format does not leave to the immediate. -/
def Format.mask (f : Format) : Word := BitVec.allOnes 32 <<< f.immediateWidth

/-- The row of a command's mnemonic: its opcode above zeros, under its format's mask. -/
def Instr.tableRow (i : Instr) : TableRow := ⟨i.mnemonic, formatN i.opcode, i.format.mask⟩

theorem opcodeTable_eq_map : opcodeTable = sampleCommands.map Instr.tableRow := by decide

theorem and_mask_toNat (f : Format) (w : Word) :
    (w &&& f.mask).toNat = w.toNat / 2 ^ f.immediateWidth * 2 ^ f.immediateWidth := by
  have hle : w.toNat / 2 ^ f.immediateWidth * 2 ^ f.immediateWidth < 2 ^ 32 :=
    (Nat.div_mul_le_self _ _).trans_lt w.isLt
  rw [Format.mask, ← BitVec.shiftLeft_ushiftRight, BitVec.toNat_shiftLeft, BitVec.toNat_ushiftRight,
    Nat.shiftRight_eq_div_pow, Nat.shiftLeft_eq, Nat.mod_eq_of_lt hle]

theorem and_mask_eq_formatN_iff (f : Format) (o : BitVec 8) (w : Word) :
    w &&& f.mask = formatN o ↔ o = opcodeField w ∧ reservedZero f w = true := by
  rw [eq_opcodeField_iff, reservedZero_iff, ← BitVec.toNat_inj, and_mask_toNat, formatN_toNat]
  cases f <;> simp only [Format.immediateWidth] <;> omega

/-- A row accepts a word of its opcode whose reserved bits are 0, whatever the immediate. -/
theorem tableRow_accepts_iff (i : Instr) (w : Word) :
    w &&& i.tableRow.mask = i.tableRow.matchBits ↔ i.opcode = opcodeField w ∧ reservedZero i.format w = true :=
  and_mask_eq_formatN_iff i.format i.opcode w

/-- The format as the opcode alone decides it. -/
def formatOfOpcode (o : BitVec 8) : Format :=
  if o = 0x40 then .x else if o ∈ [0x10#8, 0x11#8, 0x12#8] then .b else .n

theorem format_eq_formatOfOpcode (i : Instr) : i.format = formatOfOpcode i.opcode := by cases i <;> rfl

/-- A legal word is accepted by the rows of its command's opcode. -/
theorem tableRow_accepts_iff_of_decode {w : Word} {j : Instr} (h : decode w = .ok j) (i : Instr) :
    w &&& i.tableRow.mask = i.tableRow.matchBits ↔ i.opcode = j.opcode := by
  obtain ⟨hop, hres, -⟩ := (decode_eq_ok_iff w j).mp h
  rw [tableRow_accepts_iff, ← hop]
  exact ⟨fun h => h.1, fun h => ⟨h, by rw [format_eq_formatOfOpcode, h, ← format_eq_formatOfOpcode, hres]⟩⟩

theorem opcode_mem_map_sampleCommands (j : Instr) : j.opcode ∈ sampleCommands.map Instr.opcode := by
  cases j <;> exact List.mem_of_elem_eq_true rfl

@[simp] theorem readImmediate_opcode (w : Word) (i : Instr) : (i.readImmediate w).opcode = i.opcode := by
  cases i <;> rfl

@[simp] theorem readImmediate_format (w : Word) (i : Instr) : (i.readImmediate w).format = i.format := by
  cases i <;> rfl

@[simp] theorem readImmediate_readImmediate (w : Word) (i : Instr) :
    (i.readImmediate w).readImmediate w = i.readImmediate w := by
  cases i <;> rfl

/-- A word that a row accepts is the row's command with the word's immediate. -/
theorem decode_of_tableRow_accepts {w : Word} {i : Instr} (h : w &&& i.tableRow.mask = i.tableRow.matchBits) :
    decode w = .ok (i.readImmediate w) := by
  obtain ⟨hop, hres⟩ := (tableRow_accepts_iff i w).mp h
  exact (decode_eq_ok_iff w _).mpr ⟨by simpa using hop, by simpa using hres, by simp⟩

/-- The decoder refuses exactly the words that no row accepts (R77). -/
theorem decode_eq_error_iff (w : Word) :
    (∃ e, decode w = .error e) ↔ ∀ r ∈ opcodeTable, w &&& r.mask ≠ r.matchBits := by
  rw [opcodeTable_eq_map, List.forall_mem_map]
  constructor
  · rintro ⟨e, he⟩ i - h
    rw [decode_of_tableRow_accepts h] at he
    cases he
  · intro hno
    cases hd : decode w with
    | error e => exact ⟨e, rfl⟩
    | ok j =>
      obtain ⟨i, hi, hop⟩ := List.mem_map.mp (opcode_mem_map_sampleCommands j)
      exact absurd ((tableRow_accepts_iff_of_decode hd i).mpr hop) (hno i hi)

theorem no_row_accepts_iff_fields (w : Word) : (∀ r ∈ opcodeTable, w &&& r.mask ≠ r.matchBits) ↔
    opcodeField w ∉ sampleCommands.map Instr.opcode ∨ reservedZero (formatOfOpcode (opcodeField w)) w = false := by
  rw [opcodeTable_eq_map, List.forall_mem_map, ← Bool.not_eq_true, ← not_and_or, List.mem_map]
  refine ⟨?_, fun h i hi hacc => h ?_⟩
  · rintro hno ⟨⟨i, hi, hop⟩, hres⟩
    exact hno i hi ((tableRow_accepts_iff i w).mpr ⟨hop, by rw [format_eq_formatOfOpcode, hop, hres]⟩)
  · obtain ⟨hop, hres⟩ := (tableRow_accepts_iff i w).mp hacc
    exact ⟨⟨i, hi, hop⟩, by rw [← hop, ← format_eq_formatOfOpcode, hres]⟩

/-- The words no row accepts: an unassigned opcode, or an assigned one with a reserved bit of its format set (R77). -/
theorem no_row_accepts_iff (w : Word) : (∀ r ∈ opcodeTable, w &&& r.mask ≠ r.matchBits) ↔
    w.extractLsb' 24 8 ∉ [0x01#8, 0x10#8, 0x11#8, 0x12#8, 0x20#8, 0x21#8, 0x30#8, 0x31#8, 0x40#8, 0x41#8] ∨
    (w.extractLsb' 24 8 ∈ [0x01#8, 0x20#8, 0x21#8, 0x30#8, 0x31#8, 0x41#8] ∧ w.extractLsb' 0 24 ≠ 0) ∨
    (w.extractLsb' 24 8 ∈ [0x10#8, 0x11#8, 0x12#8] ∧ w.extractLsb' 8 16 ≠ 0) ∨
    (w.extractLsb' 24 8 = 0x40#8 ∧ w.extractLsb' 11 13 ≠ 0) := by
  rw [no_row_accepts_iff_fields]
  show opcodeField w ∉ sampleCommands.map Instr.opcode ∨ _ ↔ opcodeField w ∉ sampleCommands.map Instr.opcode ∨ _
  refine or_congr_right' fun hop => ?_
  replace hop : opcodeField w ∈
      [0x01#8, 0x10#8, 0x11#8, 0x12#8, 0x20#8, 0x21#8, 0x30#8, 0x31#8, 0x40#8, 0x41#8] := not_not.mp hop
  simp only [List.mem_cons, List.not_mem_nil, or_false] at hop
  rcases hop with h | h | h | h | h | h | h | h | h | h <;>
    simp [opcodeField, formatOfOpcode, reservedZero, show w.extractLsb' 24 8 = _ from h]

/-! ### The legal words, listed -/

/-- Every command with every immediate, once. -/
def allCommands : List Instr :=
  [[.clr, .pack, .serial, .csum, .derive, .inspect], (FinEnum.toList (BitVec 8)).map Instr.pushb,
    (FinEnum.toList (BitVec 8)).map Instr.pusht, (FinEnum.toList (BitVec 8)).map Instr.pushk,
    (FinEnum.toList (BitVec 11)).map Instr.lookup].flatten

theorem mem_allCommands (i : Instr) : i ∈ allCommands := by
  cases i <;> simp [allCommands]

theorem allCommands_nodup : allCommands.Nodup := by
  have hmap {n : Nat} {f : BitVec n → Instr} (hf : Function.Injective f) : ((FinEnum.toList (BitVec n)).map f).Nodup :=
    FinEnum.nodup_toList.map hf
  have hb := hmap fun _ _ => Instr.pushb.inj
  have ht := hmap fun _ _ => Instr.pusht.inj
  have hk := hmap fun _ _ => Instr.pushk.inj
  have hl := hmap fun _ _ => Instr.lookup.inj
  simp [allCommands, List.nodup_append, or_imp, forall_and, hb, ht, hk, hl]

/-- 6 commands without immediate, 3 * 256 with a byte, 2048 with an index (R78). -/
theorem allCommands_length : allCommands.length = 2822 := by
  simp [allCommands, FinEnum.toList]

theorem map_encode_allCommands_nodup : (allCommands.map encode).Nodup :=
  List.Nodup.map encode_injective allCommands_nodup

end Sys2Proof

open Sys2Proof Sys2Proof.Machine

/-- Settles O6: the rows that accept a legal word are those of its opcode; the decoder refuses the words no row
accepts. -/
theorem exactlyOneRowMatchesLegalWord : Obligations.ExactlyOneRowMatchesLegalWord := by
  intro w
  cases hd : decode w with
  | ok j =>
    have hrows : (opcodeTable.filter fun r => w &&& r.mask == r.matchBits) =
        (sampleCommands.filter fun i => i.opcode == j.opcode).map Instr.tableRow := by
      rw [opcodeTable_eq_map, List.filter_map]
      congr 2
      funext i
      rw [Function.comp_apply, Bool.eq_iff_iff, beq_iff_eq, beq_iff_eq, tableRow_accepts_iff_of_decode hd]
    rw [hrows]
    cases j <;> rfl
  | error e =>
    have hno := (decode_eq_error_iff w).mp ⟨e, hd⟩
    have hnil : (opcodeTable.filter fun r => w &&& r.mask == r.matchBits) = [] := by simpa using hno
    rw [hnil, List.map_nil]

/-- Settles O7: the words of all commands, no two of which are one word (`encode_injective`). -/
theorem legalWordsNumber2822 : Obligations.LegalWordsNumber2822 := by
  refine ⟨allCommands.map encode, map_encode_allCommands_nodup, ?_, fun w => ?_⟩
  · rw [List.length_map, allCommands_length]
  · rw [List.mem_map]
    constructor
    · rintro ⟨i, -, rfl⟩
      exact ⟨i, decode_encode i⟩
    · rintro ⟨i, hi⟩
      exact ⟨i, mem_allCommands i, (decodeAndEncodeAreInverse w i).mp hi⟩

/-- Settles O8: a row refuses by the opcode or by the reserved bits (`tableRow_accepts_iff`); a word all rows refuse
does not decode, so its step is O11's failure. -/
theorem illegalWordFailsAndChangesNothing : Obligations.IllegalWordFailsAndChangesNothing := by
  refine ⟨no_row_accepts_iff, by decide, fun s w rest hc hh hno => ?_⟩
  obtain ⟨e, he⟩ := (decode_eq_error_iff w).mpr hno
  obtain ⟨-, hillegal, -⟩ := stepExecutesTheDecodedCommand s w rest hh
  exact hillegal e hc he
end

section
/-! PROOFS of the family 30_encoding.md, 4: commands as the assembler writes them (R79). The well-formed ones are
those of some command. -/

namespace Sys2Proof

theorem assemble_source (i : Instr) : assemble i.source = some i := by
  rw [assemble, if_pos (show i.source.wellFormed = true from i.wellFormed_true)]
  cases i <;> simp [Instr.source, Instr.mnemonic, Instr.immediate]

/-- By the mnemonic's format: no immediate, one below 256 or one below 2048 (R72, R75). -/
theorem exists_source_eq_of_wellFormed {c : Source} (h : c.wellFormed = true) : ∃ i : Instr, i.source = c := by
  obtain ⟨m, imm⟩ := c
  unfold Source.wellFormed formatOfMnemonic at h
  split_ifs at h with hn hb hx
  · cases imm with
    | some v => cases h
    | none =>
      simp only [List.mem_cons, List.not_mem_nil, or_false] at hn
      rcases hn with rfl | rfl | rfl | rfl | rfl | rfl
      exacts [⟨.clr, rfl⟩, ⟨.pack, rfl⟩, ⟨.serial, rfl⟩, ⟨.csum, rfl⟩, ⟨.derive, rfl⟩, ⟨.inspect, rfl⟩]
  · cases imm with
    | none => cases h
    | some v =>
      obtain ⟨b, rfl⟩ : ∃ b : BitVec 8, b.toNat = v := ⟨.ofNat 8 v, Nat.mod_eq_of_lt (of_decide_eq_true h)⟩
      simp only [List.mem_cons, List.not_mem_nil, or_false] at hb
      rcases hb with rfl | rfl | rfl
      exacts [⟨.pushb b, rfl⟩, ⟨.pusht b, rfl⟩, ⟨.pushk b, rfl⟩]
  · cases imm with
    | none => cases h
    | some v =>
      obtain ⟨k, rfl⟩ : ∃ k : BitVec 11, k.toNat = v := ⟨.ofNat 11 v, Nat.mod_eq_of_lt (of_decide_eq_true h)⟩
      subst hx
      exact ⟨.lookup k, rfl⟩

end Sys2Proof

open Sys2Proof

/-- Settles O10: `assemble_source` one way, `exists_source_eq_of_wellFormed` the other, and `encode_toNat` for the
word. -/
theorem assemblerNotationRoundTrips : Obligations.AssemblerNotationRoundTrips := by
  refine ⟨fun i => ⟨i.wellFormed_true, assemble_source i⟩, fun c => ⟨fun h => ?_, ?_⟩, encode_toNat⟩
  · obtain ⟨i, rfl⟩ := exists_source_eq_of_wellFormed h
    exact ⟨i, assemble_source i, rfl⟩
  · rintro ⟨i, -, rfl⟩
    exact i.wellFormed_true
end

section
/-! PROOFS of the family 30_encoding.md, 5: runs of the sequences of R80. What a push sequence adds to `ENT`, step by
step, and what no later command of a derivation reads. -/

namespace Sys2Proof.Machine

open Sys2Proof Sys2Proof.Spec

/-! ### Loading -/

/-- From s to t the given bits were appended to `ENT` without overflow or error; parameters and `CFGERR` stay. -/
def Loaded (bits : Bits) (s t : State) : Prop :=
  t.params = s.params ∧ t.cfgErr = s.cfgErr ∧ t.ent = s.ent ++ bits ∧ t.entOvf = false ∧ t.errs = s.errs

theorem Loaded.trans {a b : Bits} {s t u : State} (hst : Loaded a s t) (htu : Loaded b t u) : Loaded (a ++ b) s u := by
  obtain ⟨hp, hc, hent, -, herrs⟩ := hst
  obtain ⟨hp', hc', hent', ho', herrs'⟩ := htu
  exact ⟨hp'.trans hp, hc'.trans hc, by rw [hent', hent, List.append_assoc], ho', herrs'.trans herrs⟩

/-- Bits that fit are loaded (R52). -/
theorem State.presentBits_loaded {bits : Bits} {s : State} (ho : s.entOvf = false)
    (hfit : s.ent.length + bits.length ≤ s.params.entMax) : Loaded bits s (s.presentBits bits) := by
  rcases s.presentBits_cases bits with ⟨-, -, h⟩ | ⟨hovf | hovf, -⟩
  · rw [h]
    exact ⟨rfl, rfl, rfl, ho, rfl⟩
  · simp [ho] at hovf
  · omega

/-- `PUSHT` loads the bit of a digit, and nothing for any other character (R125). -/
theorem State.presentChar_loaded {c : Option Bool} {s : State} (ho : s.entOvf = false)
    (hfit : s.ent.length + c.toList.length ≤ s.params.entMax) : Loaded c.toList s (s.presentChar c) := by
  cases c with
  | none => exact ⟨rfl, rfl, by simp [State.presentChar], ho, rfl⟩
  | some b => exact State.presentBits_loaded ho hfit

/-- A sequence of one command per byte loads what its commands load, if it fits. -/
theorem runCommands_map_loaded {cmd : Byte → Instr} {bits : Byte → Bits} {f : Byte → State → State}
    (hexec : ∀ b s, exec (cmd b) s = .next (f b s))
    (hload : ∀ b s, s.entOvf = false → s.ent.length + (bits b).length ≤ s.params.entMax → Loaded (bits b) s (f b s))
    (B : Bytes) (s : State) (hc : s.cfgErr = false) (ho : s.entOvf = false)
    (hfit : s.ent.length + (B.flatMap bits).length ≤ s.params.entMax) :
    ∃ t, runCommands (B.map cmd) s = .next t ∧ Loaded (B.flatMap bits) s t := by
  induction B generalizing s with
  | nil => exact ⟨_, runCommands_nil s, rfl, rfl, by simp, ho, rfl⟩
  | cons b B ih =>
    rw [List.flatMap_cons, List.length_append] at hfit
    have hb := hload b s ho (by omega)
    have ⟨hp, hcfg, hent, ho', _⟩ := hb
    obtain ⟨t, hrun, ht⟩ := ih (f b s) (hcfg.trans hc) ho' (by rw [hent, hp, List.length_append]; omega)
    refine ⟨t, ?_, by rw [List.flatMap_cons]; exact hb.trans ht⟩
    rw [List.map_cons, runCommands_cons _ _ _ _ (decode_encode _) hc (hexec b s), hrun]

theorem runCommands_pushBytes {s : State} (hc : s.cfgErr = false) (ho : s.entOvf = false) (B : Bytes)
    (hfit : s.ent.length + 8 * B.length ≤ s.params.entMax) :
    ∃ t, runCommands (pushBytes B) s = .next t ∧ Loaded (bytesToBits B) s t :=
  runCommands_map_loaded exec_pushb (fun _ _ ho hfit => State.presentBits_loaded ho hfit) B s hc ho
    (by rw [← bytesToBits, bytesToBits_length]; exact hfit)

theorem runCommands_pushText {s : State} (hc : s.cfgErr = false) (ho : s.entOvf = false) (F : Bytes)
    (hfit : s.ent.length + (loadFilter F).length ≤ s.params.entMax) :
    ∃ t, runCommands (pushText F) s = .next t ∧ Loaded (loadFilter F) s t := by
  rw [loadFilter, List.filterMap_eq_flatMap_toList] at hfit ⊢
  exact runCommands_map_loaded exec_pusht (fun _ _ ho hfit => State.presentChar_loaded ho hfit) F s hc ho hfit

/-! ### The commands around the push sequences -/

/-- A sequence that begins with `CLR` runs from the cleared state. -/
theorem runCommands_clr (is : List Instr) {s : State} (hc : s.cfgErr = false) :
    runCommands (.clr :: is) s = runCommands is s.clearAll.ok :=
  runCommands_cons _ _ _ _ (decode_encode _) hc (exec_clr s)

/-- A sequence that ends with command i ends as i does, but for the host's accesses, which are used up. -/
theorem runCommands_concat {is : List Instr} {i : Instr} {s t u : State} (hc : s.cfgErr = false)
    (hrun : runCommands is s = .next t) (hct : t.cfgErr = false) (he : exec i t = .next u) :
    runCommands (is ++ [i]) s = .next (u.withHost []) := by
  rw [runCommands_append is [i] s t (fun j _ => decode_encode j) hc hrun,
    runCommands_cons i [] t u (decode_encode i) hct he, runCommands_nil]

/-- *Load Entropy* of a text whose digits fit loads them into the cleared block. -/
theorem runCommands_loadEntropy {s : State} (hc : s.cfgErr = false) {F : Bytes}
    (hfit : (loadFilter F).length ≤ s.params.entMax) :
    ∃ t, runCommands (loadEntropy F) s = .next t ∧ Loaded (loadFilter F) s.clearAll.ok t := by
  rw [loadEntropy, runCommands_clr _ hc]
  exact runCommands_pushText (s := s.clearAll.ok) hc rfl F (by simpa using hfit)

/-- *Persist Entropy* of bytes that fit leaves their bits in `ENT` and the canonical text of these in `OBUF`. -/
theorem runCommands_persistEntropy {s : State} (hc : s.cfgErr = false) {B : Bytes}
    (hfit : 8 * B.length ≤ s.params.entMax) :
    ∃ t, runCommands (persistEntropy B) s = .next t ∧ t.ent = bytesToBits B ∧ noErrors t ∧
      t.obuf = serializeText (bytesToBits B) := by
  obtain ⟨t, hrun, -, hcfg, hent, ho, herrs⟩ :=
    runCommands_pushBytes (s := s.clearAll.ok) hc rfl B (by simpa using hfit)
  replace hent : t.ent = bytesToBits B := hent
  have hserial : exec .serial t = .next (t.writeObuf (serializeText t.ent)).ok := by
    simp [exec_serial, State.unlessOverflowed, ho]
  refine ⟨(t.writeObuf (serializeText t.ent)).ok.withHost [], ?_, hent, herrs, congrArg serializeText hent⟩
  rw [persistEntropy, runCommands_clr _ hc]
  exact runCommands_concat (s := s.clearAll.ok) hc hrun (hcfg.trans hc) hserial

/-- The loader drops the separators of the canonical text and keeps its digits (R124). -/
theorem loadFilter_serializeFrom (n i : Nat) (s : Bits) : loadFilter (serializeFrom n i s) = s := by
  induction s generalizing i with
  | nil => rw [serializeFrom_nil]; split <;> simp [loadFilter]
  | cons b s ih =>
    rw [serializeFrom_cons, loadFilter_digit_cons, loadFilter_append, loadFilter_separatorAfter, ih, List.nil_append]

@[simp] theorem loadFilter_serializeText (s : Bits) : loadFilter (serializeText s) = s :=
  loadFilter_serializeFrom s.length 0 s

/-! ### Derivation -/

/-- What the commands of a derivation read of a state: all but the host's side and `LASTERR`, which `PUSHT` of a
character that is no digit sets to 0 and `DERIVE` overwrites. -/
def derivationView (s : State) : State := (blockOf s).ok

theorem derivationView_presentBits (bits : Bits) (s : State) :
    derivationView (s.presentBits bits) = derivationView ((derivationView s).presentBits bits) := by
  simp only [State.presentBits, apply_ite derivationView]
  rfl

/-- The view after digits presented one by one. -/
def viewAfterDigits (v : State) (digits : Bits) : State :=
  digits.foldl (fun v b => derivationView (v.presentBits [b])) v

theorem viewAfterDigits_cons (v : State) (b : Bool) (digits : Bits) :
    viewAfterDigits v (b :: digits) = viewAfterDigits (derivationView (v.presentBits [b])) digits := rfl

/-- A text's effect on the view is that of its digits. -/
theorem runCommands_pushText_view (F : Bytes) (s : State) (hc : s.cfgErr = false) :
    ∃ t, runCommands (pushText F) s = .next t ∧ t.cfgErr = false ∧
      derivationView t = viewAfterDigits (derivationView s) (loadFilter F) := by
  induction F generalizing s with
  | nil => exact ⟨_, runCommands_nil s, hc, rfl⟩
  | cons c F ih =>
    obtain ⟨-, hcfg, -, -⟩ := exec_frame _ _ _ (exec_pusht c s)
    obtain ⟨t, hrun, hct, hview⟩ := ih (s.presentChar (charBit c)) (hcfg.trans hc)
    refine ⟨t, ?_, hct, ?_⟩
    · rw [pushText, List.map_cons, runCommands_cons _ _ _ _ (decode_encode _) hc (exec_pusht c s)]
      exact hrun
    · rw [hview, loadFilter_cons]
      cases charBit c with
      | none => rfl
      | some b =>
        rw [Option.toList_some, List.singleton_append, viewAfterDigits_cons, ← derivationView_presentBits]
        rfl

/-- `DERIVE` answers by the view alone. -/
theorem blockOf_derive (s : State) :
    blockOf (s.ifDerivable fun s => s.writeMnemonic.ok) =
      blockOf ((derivationView s).ifDerivable fun s => s.writeMnemonic.ok) := by
  simp only [State.ifDerivable, apply_ite blockOf]
  rfl

/-- *Derive Mnemonic* leaves a block state that the parameters and the file's digits determine. -/
theorem runCommands_deriveMnemonic {s : State} (hc : s.cfgErr = false) (F : Bytes) :
    ∃ t, runCommands (deriveMnemonic F) s = .next t ∧
      blockOf t = blockOf
        ((viewAfterDigits (derivationView s.clearAll.ok) (loadFilter F)).ifDerivable fun s => s.writeMnemonic.ok) := by
  obtain ⟨t, hrun, hct, hview⟩ := runCommands_pushText_view F s.clearAll.ok hc
  have hload : runCommands (loadEntropy F) s = .next t := by rw [loadEntropy, runCommands_clr _ hc, hrun]
  refine ⟨_, runCommands_concat hc hload hct (exec_derive t), ?_⟩
  rw [← hview, ← blockOf_derive]
  rfl

/-- The cleared view holds the parameters and `CFGERR` alone. -/
theorem derivationView_clearAll_congr {s₁ s₂ : State} (hp : s₁.params = s₂.params) (hc : s₁.cfgErr = s₂.cfgErr) :
    derivationView s₁.clearAll.ok = derivationView s₂.clearAll.ok := by
  simp [derivationView, blockOf, State.ok, State.clearAll, hp, hc]

end Sys2Proof.Machine

open Sys2Proof Sys2Proof.Machine

/-- Settles O46, by `runCommands_pushBytes` and `runCommands_pushText` from an empty buffer. -/
theorem pushSequencesLoadTheEntropy : Obligations.PushSequencesLoadTheEntropy := by
  intro s hc hent ho hne
  refine ⟨fun B hfit => ?_, fun F hfit => ?_⟩
  · obtain ⟨t, hrun, -, -, hent', ho', herrs⟩ := runCommands_pushBytes hc ho B (by simpa [hent] using hfit)
    exact ⟨t, hrun, by rw [hent', hent, List.nil_append], ho', herrs.trans hne⟩
  · obtain ⟨t, hrun, -, -, hent', ho', herrs⟩ := runCommands_pushText hc ho F (by simpa [hent] using hfit)
    exact ⟨t, hrun, by rw [hent', hent, List.nil_append], ho', herrs.trans hne⟩

/-- Settles O47: the text left in `OBUF` has the entropy bits as its digits (`loadFilter_serializeText`). -/
theorem persistedTextLoadsBack : Obligations.PersistedTextLoadsBack := by
  intro s₁ s₂ B hc₁ hc₂ hp hfit
  obtain ⟨t₁, hrun₁, hent₁, hne₁, hobuf⟩ := runCommands_persistEntropy hc₁ hfit
  have hdigits : loadFilter t₁.obuf = bytesToBits B := by rw [hobuf, loadFilter_serializeText]
  obtain ⟨t₂, hrun₂, -, -, hent, -, herrs⟩ := runCommands_loadEntropy hc₂ (F := t₁.obuf)
    (by rw [hdigits, bytesToBits_length, ← hp]; exact hfit)
  have hent₂ : t₂.ent = t₁.ent := by rw [hent₁, ← hdigits]; exact hent
  exact ⟨t₁, t₂, hrun₁, hent₁, hne₁, hrun₂, hent₂, herrs⟩

/-- Settles O48: both runs end in the state that `runCommands_deriveMnemonic` computes from parameters and digits. -/
theorem derivationDependsOnlyOnTheDigits : Obligations.DerivationDependsOnlyOnTheDigits := by
  intro s₁ s₂ F₁ F₂ hc₁ hc₂ hp hF
  obtain ⟨t₁, hrun₁, ht₁⟩ := runCommands_deriveMnemonic hc₁ F₁
  obtain ⟨t₂, hrun₂, ht₂⟩ := runCommands_deriveMnemonic hc₂ F₂
  refine ⟨t₁, t₂, hrun₁, hrun₂, ?_⟩
  rw [ht₁, ht₂, hF, derivationView_clearAll_congr hp (hc₁.trans hc₂.symm)]
end

section
/-! PROOFS of the family 40_bit_codec.md, 1: bits, bytes and integers (R100 to R104, R108). `bitsToInt` is pinned by its
binary digits: digit k is the k-th bit from the end. Both inverses, of bytes and of indices, follow for any width. -/

namespace Sys2Proof.Machine

open Sys2Proof

/-! ### The bits of a word of any width, most significant first -/

/-- Digit k of the integer is the k-th bit from the end (R102). -/
theorem testBit_bitsToInt (g : Bits) (k : Nat) : (bitsToInt g).testBit k = g.reverse.getD k false := by
  induction g with
  | nil => simp
  | cons b g ih =>
    rw [bitsToInt_cons, Nat.mul_comm, Nat.testBit_two_pow_mul_add _ (bitsToInt_lt g), List.reverse_cons]
    by_cases hk : k < g.length
    · rw [if_pos hk, ih, List.getD_append _ _ _ _ (by simpa using hk)]
    · rw [if_neg hk, List.getD_append_right _ _ _ _ (by simpa using hk), List.length_reverse,
        Nat.testBit_bool_toNat]
      cases k - g.length <;> simp

/-- The bits of v, most significant first: the form that R100 and R103 share. -/
def msbFirst {w : Nat} (v : BitVec w) : Bits := (List.range w).map fun i => v.getLsbD (w - 1 - i)

theorem byteBits_eq_msbFirst (b : Byte) : byteBits b = msbFirst b := rfl

theorem intToBits11_eq_msbFirst (v : Index) : intToBits11 v = msbFirst v := rfl

@[simp] theorem msbFirst_length {w : Nat} (v : BitVec w) : (msbFirst v).length = w := by simp [msbFirst]

theorem msbFirst_getElem? {w : Nat} (v : BitVec w) {i : Nat} (h : i < w) :
    (msbFirst v)[i]? = some (v.getLsbD (w - 1 - i)) := by
  simp [msbFirst, h]

/-- A sequence of w bits is the bits of the integer it stands for. -/
theorem msbFirst_ofNat_bitsToInt {w : Nat} {g : Bits} (h : g.length = w) :
    msbFirst (BitVec.ofNat w (bitsToInt g)) = g := by
  refine List.ext_getElem (by simp [h]) fun i hi hg => ?_
  have hw : i < w := by simpa using hi
  simp only [msbFirst, List.getElem_map, List.getElem_range, BitVec.getLsbD_ofNat, testBit_bitsToInt]
  rw [List.getD_eq_getElem _ _ (by simp; omega), List.getElem_reverse]
  simp [h, show w - 1 - i < w by omega, show w - 1 - (w - 1 - i) = i by omega]

/-- The integer that the bits of v stand for is v. -/
theorem bitsToInt_msbFirst {w : Nat} (v : BitVec w) : bitsToInt (msbFirst v) = v.toNat := by
  refine Nat.eq_of_testBit_eq fun k => ?_
  rw [testBit_bitsToInt, BitVec.testBit_toNat]
  by_cases hk : k < w
  · rw [List.getD_eq_getElem _ _ (by simpa using hk), List.getElem_reverse]
    simp [msbFirst, show w - 1 - (w - 1 - k) = k by omega]
  · rw [List.getD_eq_default _ _ (by simp; omega), BitVec.getLsbD_of_ge _ _ (by omega)]

/-! ### Bytes and bits -/

theorem byteBits_getElem? (b : Byte) {i : Nat} (h : i < 8) : (byteBits b)[i]? = some (b.getLsbD (7 - i)) := by
  rw [byteBits_eq_msbFirst, msbFirst_getElem? b h]

/-- Bit 8j + i of the bytes is bit 7 - i of byte j (R100). -/
theorem bytesToBits_getElem? (B : Bytes) (j : Nat) {i : Nat} (h : i < 8) :
    (bytesToBits B)[8 * j + i]? = (B[j]?).map fun b => b.getLsbD (7 - i) := by
  induction B generalizing j with
  | nil => rfl
  | cons b B ih =>
    rw [bytesToBits_cons]
    cases j with
    | zero => rw [List.getElem?_append_left (by simpa using h), Nat.mul_zero, Nat.zero_add, byteBits_getElem? b h]; rfl
    | succ j =>
      rw [List.getElem?_append_right (by simp; omega), byteBits_length, List.getElem?_cons_succ, ← ih]
      congr 1
      omega

/-- The bits of byte j of the packed form (R101). -/
theorem byteBits_packedByte (s : Bits) (j : Nat) :
    byteBits (packedByte s j) = (List.range 8).map fun i => s.getD (8 * j + i) false := by
  rw [byteBits_eq_msbFirst, packedByte, msbFirst_ofNat_bitsToInt (by simp)]

theorem packedByte_getLsbD (s : Bits) (j : Nat) {i : Nat} (h : i < 8) :
    (packedByte s j).getLsbD (7 - i) = s.getD (8 * j + i) false := by
  have hbits := byteBits_getElem? (packedByte s j) h
  rw [byteBits_packedByte, List.getElem?_map, List.getElem?_range h] at hbits
  exact (Option.some.inj hbits).symm

theorem byteBits_injective : Function.Injective byteBits := by
  intro a b h
  apply BitVec.eq_of_toNat_eq
  rw [← bitsToInt_msbFirst a, ← bitsToInt_msbFirst b, ← byteBits_eq_msbFirst, ← byteBits_eq_msbFirst, h]

theorem bitsToBytes_getElem (s : Bits) {j : Nat} (h : j < (bitsToBytes s).length) :
    (bitsToBytes s)[j] = packedByte s j := by
  simp [bitsToBytes]

/-- The packed form holds the bits, then zeros up to the next whole byte (R101, R108). -/
theorem bytesToBits_bitsToBytes (s : Bits) :
    bytesToBits (bitsToBytes s) = s ++ List.replicate (8 * ((s.length + 7) / 8) - s.length) false := by
  refine List.ext_getElem (by simp; omega) fun k hk _ => ?_
  have hj : k / 8 < (bitsToBytes s).length := by simp at hk ⊢; omega
  have hi : k % 8 < 8 := Nat.mod_lt _ (by decide)
  have hbit : (bytesToBits (bitsToBytes s))[k]? = some (s.getD k false) := by
    conv_lhs => rw [← Nat.div_add_mod k 8, bytesToBits_getElem? _ _ hi, List.getElem?_eq_getElem hj]
    rw [bitsToBytes_getElem, Option.map_some, packedByte_getLsbD _ _ hi, Nat.div_add_mod]
  rw [List.getElem?_eq_getElem hk] at hbit
  rw [Option.some.inj hbit]
  by_cases hs : k < s.length
  · rw [List.getElem_append_left hs, List.getD_eq_getElem _ _ hs]
  · rw [List.getElem_append_right (by omega), List.getD_eq_default _ _ (by omega), List.getElem_replicate]

/-- Packing gives the bytes back: byte j of the packed form has the bits of byte j (R108). -/
theorem bitsToBytes_bytesToBits (B : Bytes) : bitsToBytes (bytesToBits B) = B := by
  refine List.ext_getElem (by simp; omega) fun j hj hB => byteBits_injective ?_
  rw [bitsToBytes_getElem _ hj, byteBits_packedByte, byteBits]
  refine List.map_congr_left fun i hi => ?_
  rw [List.getD_eq_getElem?_getD, bytesToBits_getElem? B j (List.mem_range.mp hi), List.getElem?_eq_getElem hB]
  rfl

/-! ### Integers, indices and literals -/

/-- The big-endian sum (R102). -/
theorem bitsToInt_eq_sum (g : Bits) :
    bitsToInt g = ∑ i ∈ Finset.range g.length, (g.getD i false).toNat * 2 ^ (g.length - 1 - i) := by
  induction g with
  | nil => rfl
  | cons b g ih =>
    rw [bitsToInt_cons, ih, List.length_cons, Finset.sum_range_succ', Nat.add_comm]
    congr 1
    refine Finset.sum_congr rfl fun i _ => ?_
    rw [List.getD_cons_succ, show g.length + 1 - 1 - (i + 1) = g.length - 1 - i by omega]

theorem intToBits11_getElem? (v : Index) {i : Nat} (h : i < 11) : (intToBits11 v)[i]? = some (v.getLsbD (10 - i)) := by
  rw [intToBits11_eq_msbFirst, msbFirst_getElem? v h]

theorem bitsToInt_intToBits11 (v : Index) : bitsToInt (intToBits11 v) = v.toNat := by
  rw [intToBits11_eq_msbFirst, bitsToInt_msbFirst]

theorem intToBits11_ofNat_bitsToInt {g : Bits} (h : g.length = 11) :
    intToBits11 (BitVec.ofNat 11 (bitsToInt g)) = g := by
  rw [intToBits11_eq_msbFirst, msbFirst_ofNat_bitsToInt h]

/-- A binary literal is not empty and consists of digits (R104). -/
theorem isBinaryLiteral_iff (t : Bytes) :
    isBinaryLiteral t = true ↔ t ≠ [] ∧ ∀ c ∈ t, c = chr0 ∨ c = chr1 := by
  simp [isBinaryLiteral]

end Sys2Proof.Machine

open Sys2Proof Sys2Proof.Machine

/-- Settles O38: byte j of the packed form holds bits 8j to 8j + 7 (`byteBits_packedByte`). -/
theorem bytesAndBitsRoundTrip : Obligations.BytesAndBitsRoundTrip :=
  ⟨bitsToBytes_bytesToBits, bytesToBits_bitsToBytes⟩

/-- Settles O39, by induction on the bytes. -/
theorem bytesToBitsIsMostSignificantFirst : Obligations.BytesToBitsIsMostSignificantFirst := by
  intro B
  exact ⟨bytesToBits_length B, fun j _ i hi => bytesToBits_getElem? B j hi⟩

/-- Settles O40, by induction on the bits. -/
theorem bitsToIntIsTheBigEndianSum : Obligations.BitsToIntIsTheBigEndianSum := by
  intro g
  exact ⟨bitsToInt_eq_sum g, bitsToInt_lt g⟩

/-- Settles O41: the inverses are those of `msbFirst`, at width 11. -/
theorem intToBits11InvertsBitsToInt : Obligations.IntToBits11InvertsBitsToInt := by
  refine ⟨fun v => ⟨intToBits11_length v, fun i hi => intToBits11_getElem? v hi, bitsToInt_intToBits11 v, rfl⟩,
    fun g hg => intToBits11_ofNat_bitsToInt hg⟩

/-- Settles O42: non-empty, and each byte a digit's. -/
theorem binaryLiteralIsNonEmptyAllDigits : Obligations.BinaryLiteralIsNonEmptyAllDigits := by
  intro t
  rw [isBinaryLiteral_iff, ← List.length_pos_iff]
  rfl
end

section
/-! PROOFS of the family 40_bit_codec.md, 2: the commands `CLR`, `PUSHB` and `PACK` and their words (R105 to R107). -/

namespace Sys2Proof

/-- The word of format B is the opcode's word with the immediate in its low bits (R73). -/
theorem formatB_eq_formatN_or (o b : BitVec 8) : formatB o b = formatN o ||| b.setWidth 32 := by
  have hb : b.toNat < 2 ^ 24 := b.isLt.trans (by decide)
  apply BitVec.eq_of_toNat_eq
  rw [formatB_toNat, BitVec.toNat_or, formatN_toNat, BitVec.toNat_setWidth_of_le (by decide), ← Nat.shiftLeft_eq,
    Nat.shiftLeft_add_eq_or_of_lt hb]

end Sys2Proof

namespace Sys2Proof.Machine

open Sys2Proof Sys2Proof.Spec

/-- A command's own word issues it (R70). -/
theorem issuedAs_encode (i : Instr) : IssuedAs (encode i) i := by
  intro s rest hh
  rw [step_of_cmd_write s (encode i) rest hh]
  by_cases hc : s.cfgErr = true
  · rw [if_pos hc]
    exact cmdWrite_of_cfgErr hc
  · rw [if_neg hc]
    exact cmdWrite_of_ok (Bool.eq_false_of_not_eq_true hc) (decode_encode i)

theorem issuedAs_of_encode_eq {w : Word} {i : Instr} (h : encode i = w) : IssuedAs w i := h ▸ issuedAs_encode i

/-- With an overflow pending or too little room, bits are refused whole (R52). -/
theorem State.presentBits_of_no_room {bits : Bits} {s : State}
    (h : s.entOvf = true ∨ s.params.entMax < s.ent.length + bits.length) :
    s.presentBits bits = s.setEntOvf.fail .ovf := by
  rcases s.presentBits_cases bits with ⟨ho, hroom, -⟩ | ⟨-, he⟩
  · rcases h with h | h
    · simp [ho] at h
    · omega
  · exact he

/-- With no overflow pending and room for all of them, bits are appended (R52). -/
theorem State.presentBits_of_room {bits : Bits} {s : State} (ho : s.entOvf = false)
    (hroom : s.ent.length + bits.length ≤ s.params.entMax) : s.presentBits bits = (s.appendEnt bits).ok := by
  rcases s.presentBits_cases bits with ⟨-, -, he⟩ | ⟨h | h, -⟩
  · exact he
  · simp [ho] at h
  · omega

theorem State.unlessOverflowed_of_overflow {s : State} (body : State → State) (ho : s.entOvf = true) :
    s.unlessOverflowed body = s.fail .ovf := by simp [State.unlessOverflowed, ho]

theorem State.unlessOverflowed_of_no_overflow {s : State} (body : State → State) (ho : s.entOvf = false) :
    s.unlessOverflowed body = body s := by simp [State.unlessOverflowed, ho]

/-- At least one appended bit drops `CSVALID` (R26). -/
theorem State.appendEnt_ok_eq {bits : Bits} (hne : bits ≠ []) (s : State) :
    (s.appendEnt bits).ok = { s with ent := s.ent ++ bits, csValid := false, lastErr := .ok } := by
  simp [State.appendEnt, State.ok, hne]

/-- With a good ROM, the cleared block is the reset one; the host's side is not the block's (R105, R45). -/
theorem State.clearAll_ok_eq_reset {s : State} (hc : s.cfgErr = false) (hrom : s.params.wordlist.length = 2048) :
    s.clearAll.ok = { State.resetWith s.params with host := s.host, received := s.received } := by
  simp [State.clearAll, State.ok, State.resetWith, State.resetOf, hrom, hc, Config.wlSize, Errs.clear]

end Sys2Proof.Machine

open Sys2Proof Sys2Proof.Machine

/-- Settles O21: `CLR` is `State.clearAll`. -/
theorem clearGivesTheResetState : Obligations.ClearGivesTheResetState := by
  refine ⟨issuedAs_encode .clr, exec_clr, fun s hc hrom => ?_⟩
  rw [exec_clr, State.clearAll_ok_eq_reset hc hrom]

/-- Settles O22: the 8 bits are presented to `ENT` at once, so all are appended or none. -/
theorem pushbAppendsEightBitsOrNone : Obligations.PushbAppendsEightBitsOrNone := by
  intro b
  refine ⟨issuedAs_of_encode_eq (formatB_eq_formatN_or _ _), fun s => ⟨fun h => ?_, fun ho hroom => ?_⟩⟩
  · rw [exec_pushb, State.presentBits_of_no_room (by simpa using h)]
    rfl
  · have hbits : byteBits b ≠ [] := List.ne_nil_of_length_eq_add_one (byteBits_length b)
    refine ⟨s.ent ++ byteBits b, ?_, by simp, by simp, fun i hi => ?_⟩
    · rw [exec_pushb, State.presentBits_of_room ho (by simpa using hroom), State.appendEnt_ok_eq hbits]
    · rw [List.getElem?_append_right (Nat.le_add_right _ _), Nat.add_sub_cancel_left, byteBits_getElem? b hi]

/-- Settles O25: the bytes written are `bitsToBytes` of the entropy, bit by bit by `packedByte_getLsbD`. -/
theorem packWritesThePaddedBytes : Obligations.PackWritesThePaddedBytes := by
  refine ⟨issuedAs_encode .pack, fun s => ⟨fun ho => ?_, fun ho => ?_⟩⟩
  · rw [exec_pack, State.unlessOverflowed_of_overflow _ ho]
    rfl
  · refine ⟨bitsToBytes s.ent, ?_, bitsToBytes_length _, fun j hj i hi => ?_⟩
    · rw [exec_pack, State.unlessOverflowed_of_no_overflow _ ho]
      rfl
    · rw [List.getD_eq_getElem _ _ hj, bitsToBytes_getElem, packedByte_getLsbD s.ent j hi]
end

section
/-! PROOFS of the family 41_persist_load.md: the canonical text and the commands `SERIAL` and `PUSHT` (R120 to R125). The
text is read from the position of a digit on (`serializeText_drop`): what stands there is the serializer's loop over the
remaining bits. -/

namespace Sys2Proof.Machine

open Sys2Proof

/-! ### The canonical text -/

/-- After a full group that is not the last: `LF` if it is the sixth of its line, else `SP` (R121). -/
theorem separatorAfter_group {n k : Nat} (h : 11 * (k + 1) < n) :
    separatorAfter n (11 * (k + 1)) = [if (k + 1) % 6 = 0 then chrLF else chrSP] := by
  rw [separatorAfter_eq]
  by_cases h6 : (k + 1) % 6 = 0
  · rw [if_pos (by omega), if_pos h6]
  · rw [if_neg (by omega), if_pos (by omega), if_neg h6]

/-- After the last digit stands one `LF` and nothing else (R121). -/
theorem separatorAfter_last (n : Nat) : separatorAfter n n ++ serializeFrom n n [] = [chrLF] := by
  rw [separatorAfter_eq, serializeFrom_nil]
  by_cases h : n % 66 = 0 <;> simp [h]

/-- The loop at a bit of s: its digit, the separator after it, the loop over the bits behind it. -/
theorem serializeFrom_drop (n : Nat) {s : Bits} {i : Nat} (h : i < s.length) :
    serializeFrom n i (s.drop i) =
      digitChar s[i] :: (separatorAfter n (i + 1) ++ serializeFrom n (i + 1) (s.drop (i + 1))) := by
  rw [List.drop_eq_getElem_cons h, serializeFrom_cons]

/-- Digit i stands at offset i + i/11, one separator for each full group before it, and the loop goes on from there. -/
theorem serializeText_drop {s : Bits} {i : Nat} (h : i < s.length) :
    (serializeText s).drop (i + i / 11) = serializeFrom s.length i (s.drop i) := by
  induction i with
  | zero => rfl
  | succ i ih =>
    have hsep := separatorAfter_length_of_lt h
    have hoffset : i + 1 + (i + 1) / 11 = i + i / 11 + ((separatorAfter s.length (i + 1)).length + 1) := by
      rw [hsep]
      split <;> omega
    rw [hoffset, ← List.drop_drop, ih (by omega), serializeFrom_drop _ (by omega), List.drop_succ_cons, List.drop_left]

/-- What the canonical text holds behind the offset of digit i. -/
theorem serializeText_getElem? {s : Bits} {i : Nat} (h : i < s.length) (d : Nat) :
    (serializeText s)[i + i / 11 + d]? =
      (digitChar s[i] :: (separatorAfter s.length (i + 1) ++ serializeFrom s.length (i + 1) (s.drop (i + 1))))[d]? := by
  rw [← List.getElem?_drop, serializeText_drop h, serializeFrom_drop _ h]

theorem serializeText_digit {s : Bits} {i : Nat} (h : i < s.length) :
    (serializeText s)[i + i / 11]? = some (digitChar s[i]) :=
  serializeText_getElem? h 0

/-- The separator of a full group that is not the last stands right after its eleventh digit. -/
theorem serializeText_separator {s : Bits} {k : Nat} (h : 11 * (k + 1) < s.length) :
    (serializeText s)[12 * k + 11]? = some (if (k + 1) % 6 = 0 then chrLF else chrSP) := by
  have hdigit : 11 * k + 10 < s.length := by omega
  have hoffset : 12 * k + 11 = 11 * k + 10 + (11 * k + 10) / 11 + 1 := by omega
  have hgroup := separatorAfter_group h
  rw [hoffset, serializeText_getElem? hdigit, List.getElem?_cons_succ]
  change (separatorAfter s.length (11 * (k + 1)) ++ _)[0]? = _
  rw [hgroup]
  rfl

theorem serializeText_getLast? {s : Bits} (h : 0 < s.length) : (serializeText s).getLast? = some chrLF := by
  obtain ⟨i, hi⟩ := Nat.exists_eq_add_one.mpr h
  have hdrop : (serializeText s).drop (i + i / 11) = [digitChar s[i], chrLF] := by
    rw [serializeText_drop (by omega), serializeFrom_drop _ (by omega), ← hi, List.drop_length, separatorAfter_last]
  rw [← List.take_append_drop (i + i / 11) (serializeText s), hdrop, List.getLast?_append]
  rfl

/-! ### Loading a character -/

/-- The bit of a binary digit is its value (R123). -/
theorem charBit_of_digit {c : Byte} (h : c = 0x30 ∨ c = 0x31) : charBit c = some (decide ((c - 0x30).toNat = 1)) := by
  rcases h with rfl | rfl <;> rfl

end Sys2Proof.Machine

open Sys2Proof Sys2Proof.Machine

/-- Settles O43: the filter keeps each digit and drops each separator (`loadFilter_serializeFrom`). -/
theorem loadFilterInvertsSerializeText : Obligations.LoadFilterInvertsSerializeText := loadFilter_serializeText

/-- Settles O23: a character with no bit is `ok` alone; a digit presents its one bit to `ENT`. -/
theorem pushtAppendsDigitsAndIgnoresTheRest : Obligations.PushtAppendsDigitsAndIgnoresTheRest := by
  intro c
  refine ⟨issuedAs_of_encode_eq (formatB_eq_formatN_or _ _), fun s =>
    ⟨fun hc => ?_, fun hc h => ?_, fun hc ho hroom => ?_⟩⟩
  · rw [exec_pusht, (charBit_eq_none_iff c).mpr hc]
    rfl
  · rw [exec_pusht, charBit_of_digit hc]
    exact congrArg Host.Outcome.next (State.presentBits_of_no_room h)
  · rw [exec_pusht, charBit_of_digit hc, ← State.appendEnt_ok_eq (List.cons_ne_nil _ _)]
    exact congrArg Host.Outcome.next (State.presentBits_of_room ho hroom)

/-- Settles O26: the text written is `serializeText` of the entropy, its layout by `serializeText_drop`. -/
theorem serialWritesTheCanonicalText : Obligations.SerialWritesTheCanonicalText := by
  refine ⟨issuedAs_encode .serial, fun s => ⟨fun ho => ?_, fun ho => ?_⟩⟩
  · rw [exec_serial, State.unlessOverflowed_of_overflow _ ho]
    rfl
  · refine ⟨serializeText s.ent, ?_, serializeText_length _, fun i h => serializeText_digit h,
      fun k h => serializeText_separator h, serializeText_getLast?⟩
    rw [exec_serial, State.unlessOverflowed_of_no_overflow _ ho]
    rfl
end

section
/-! PROOFS of the family 42_sha256_checksum.md, 1: the parts of SHA-256, of word operations, padding, schedule and
rounds (R140 to R147). The schedule is followed word by word through `extendSchedule`, the rounds through a fold stopped
early. -/

namespace Sys2Proof.Machine

open Sys2Proof

/-! ### The word operations (R140) -/

theorem shr_toNat (n : Nat) (x : Word) : (shr n x).toNat = x.toNat / 2 ^ n := by
  rw [shr, BitVec.toNat_ushiftRight, Nat.shiftRight_eq_div_pow]

/-- The low n bits, moved to the top, do not overlap the others. -/
theorem rotr_toNat {n : Nat} (x : Word) (h : n < 32) :
    (rotr n x).toNat = x.toNat / 2 ^ n + x.toNat % 2 ^ n * 2 ^ (32 - n) := by
  have hpow : 2 ^ n * 2 ^ (32 - n) = 2 ^ 32 := by rw [← pow_add, Nat.add_sub_of_le h.le]
  have htop : x.toNat <<< (32 - n) % 2 ^ 32 = (x.toNat % 2 ^ n) <<< (32 - n) := by
    rw [Nat.shiftLeft_eq, Nat.shiftLeft_eq, ← hpow, Nat.mul_mod_mul_right]
  have hlow : x.toNat / 2 ^ n < 2 ^ (32 - n) := Nat.div_lt_of_lt_mul (hpow ▸ x.isLt)
  rw [rotr, BitVec.toNat_rotateRight, Nat.mod_eq_of_lt h, htop, Nat.shiftRight_eq_div_pow, Nat.or_comm,
    ← Nat.shiftLeft_add_eq_or_of_lt hlow, Nat.shiftLeft_eq, Nat.add_comm]

/-! ### Padding (R143) -/

theorem padZeros_le {L y : Nat} (h : (L + 1 + y) % 64 = 56) : padZeros L ≤ y := by
  unfold padZeros
  omega

/-- The padded message fills whole blocks. -/
theorem shaPad_length_eq_blocks (M : Bytes) : (shaPad M).length = 64 * ((M.length + 8) / 64 + 1) := by
  have hspec := padZeros_spec M.length
  have hlt := padZeros_lt M.length
  rw [shaPad_length]
  omega

/-- What stands behind the message and its 0x80: the zero bytes, then the length. -/
theorem shaPad_getElem?_tail (M : Bytes) (d : Nat) :
    (shaPad M)[M.length + 1 + d]? =
      (List.replicate (padZeros M.length) 0 ++ bigEndianBytes 8 (8 * M.length))[d]? := by
  have hhead : (M ++ [0x80]).length = M.length + 1 := by simp
  rw [shaPad, List.append_assoc (M ++ [0x80]), ← hhead, List.getElem?_append_right (Nat.le_add_right _ _),
    Nat.add_sub_cancel_left]

theorem shaPad_take (M : Bytes) : (shaPad M).take M.length = M := by simp [shaPad]

theorem shaPad_marker (M : Bytes) : (shaPad M)[M.length]? = some 0x80 := by simp [shaPad]

theorem shaPad_zero (M : Bytes) {y : Nat} (h : y < padZeros M.length) :
    (shaPad M)[M.length + 1 + y]? = some 0x00 := by
  rw [shaPad_getElem?_tail, List.getElem?_append_left (by simpa using h), List.getElem?_replicate, if_pos h]

theorem shaPad_lengthByte (M : Bytes) {i : Nat} (h : i < 8) :
    (shaPad M)[M.length + 1 + padZeros M.length + i]? = some (BitVec.ofNat 8 (8 * M.length / 256 ^ (7 - i))) := by
  rw [Nat.add_assoc, shaPad_getElem?_tail, List.getElem?_append_right (by simp)]
  simp [bigEndianBytes, h]

/-! ### The message schedule (R146) -/

theorem extendSchedule_add (m n : Nat) (ws : List Word) :
    extendSchedule (m + n) ws = extendSchedule n (extendSchedule m ws) := by
  induction m generalizing ws with
  | zero => rw [Nat.zero_add]; rfl
  | succ m ih => rw [Nat.add_right_comm]; exact ih _

theorem extendSchedule_succ (m : Nat) (ws : List Word) :
    extendSchedule (m + 1) ws = nextScheduleWord (extendSchedule m ws) :: extendSchedule m ws :=
  extendSchedule_add m 1 ws

/-- A longer schedule ends, in the newest-first order, with the shorter one. -/
theorem suffix_extendSchedule (n : Nat) (ws : List Word) : ws <:+ extendSchedule n ws := by
  induction n with
  | zero => exact List.suffix_rfl
  | succ n ih => exact extendSchedule_succ n ws ▸ ih.trans (List.suffix_cons _ _)

/-- The first m + 16 words of the schedule are final once m words have been added. -/
theorem schedule_getD {mw : List Word} (hmw : mw.length = 16) {m i : Nat} (hm : m ≤ 48) (hi : i < 16 + m) :
    (schedule mw).getD i 0 = (extendSchedule m mw.reverse).getD (15 + m - i) 0 := by
  have hlen : (extendSchedule m mw.reverse).length = 16 + m := by simp [hmw]
  have hsuffix : extendSchedule m mw.reverse <:+ extendSchedule 48 mw.reverse := by
    rw [← Nat.add_sub_of_le hm, extendSchedule_add]
    exact suffix_extendSchedule _ _
  obtain ⟨newer, hnewer⟩ := hsuffix
  rw [schedule, ← hnewer, List.reverse_append, List.getD_append _ _ _ _ (by simpa [hlen] using hi),
    List.getD_reverse _ (by omega), hlen]
  congr 1
  omega

theorem schedule_take {mw : List Word} (hmw : mw.length = 16) : (schedule mw).take 16 = mw := by
  obtain ⟨newer, hnewer⟩ := suffix_extendSchedule 48 mw.reverse
  rw [schedule, ← hnewer, List.reverse_append, List.reverse_reverse, ← hmw, List.take_left]

theorem schedule_length {mw : List Word} (hmw : mw.length = 16) : (schedule mw).length = 64 := by
  simp [schedule, hmw]

theorem schedule_recurrence {mw : List Word} (hmw : mw.length = 16) {m : Nat} (hm : m < 48) :
    (schedule mw).getD (16 + m) 0 =
      ssig1 ((schedule mw).getD (16 + m - 2) 0) + (schedule mw).getD (16 + m - 7) 0 +
        ssig0 ((schedule mw).getD (16 + m - 15) 0) + (schedule mw).getD (16 + m - 16) 0 := by
  have hback : ∀ k, 1 ≤ k → k ≤ 16 →
      (schedule mw).getD (16 + m - k) 0 = (extendSchedule m mw.reverse).getD (k - 1) 0 := by
    intro k hk hk'
    rw [schedule_getD hmw hm.le (by omega)]
    congr 1
    omega
  have hnew : (schedule mw).getD (16 + m) 0 = nextScheduleWord (extendSchedule m mw.reverse) := by
    rw [schedule_getD hmw (m := m + 1) (by omega) (by omega), extendSchedule_succ,
      show 15 + (m + 1) - (16 + m) = 0 by omega, List.getD_cons_zero]
  rw [hnew, hback 2 (by omega) (by omega), hback 7 (by omega) (by omega), hback 15 (by omega) (by omega),
    hback 16 (by omega) (by omega)]
  rfl

/-! ### The rounds (R147): a fold, stopped early -/

theorem foldl_take_succ {α β : Type} (f : β → α → β) (b : β) {l : List α} {i : Nat} (h : i < l.length) :
    (l.take (i + 1)).foldl f b = f ((l.take i).foldl f b) l[i] := by
  rw [List.take_succ_eq_append_getElem h, List.foldl_append]
  rfl

/-- The working variables after the first t rounds (R147). -/
def compressRounds (H : Hash8) (W : List Word) (t : Nat) : Hash8 :=
  ((roundConstants.zip W).take t).foldl (fun v kw => shaRound v kw.1 kw.2) H

theorem compress_eq_rounds (H : Hash8) {W : List Word} (hW : W.length = 64) : compress H W = compressRounds H W 64 := by
  rw [compressRounds, List.take_of_length_le (by simp [hW])]
  rfl

theorem compressRounds_succ (H : Hash8) {W : List Word} (hW : W.length = 64) {t : Nat} (ht : t < 64) :
    compressRounds H W (t + 1) = shaRound (compressRounds H W t) (roundConstants.getD t 0) (W.getD t 0) := by
  rw [List.getD_eq_getElem _ _ (by simpa using ht), List.getD_eq_getElem _ _ (by omega)]
  have hround : t < (roundConstants.zip W).length := by simp [hW, ht]
  rw [compressRounds, foldl_take_succ _ _ hround, List.getElem_zip, compressRounds]

end Sys2Proof.Machine

open Sys2Proof Sys2Proof.Machine

/-- Settles O28, operation by operation. -/
theorem hashWordOperationsAreArithmetic : Obligations.HashWordOperationsAreArithmetic := by
  refine ⟨BitVec.toNat_add, fun x y i => ⟨BitVec.getLsbD_and, BitVec.getLsbD_or, BitVec.getLsbD_xor⟩,
    fun x => BitVec.toNat_not, fun x n _ => shr_toNat n x, fun x n _ hn => rotr_toNat x hn⟩

/-- Settles O29: the number of zero bytes is `padZeros`. -/
theorem paddingFillsWholeBlocks : Obligations.PaddingFillsWholeBlocks := by
  intro M _
  refine ⟨padZeros M.length, padZeros_spec _, fun y hy => padZeros_le hy, shaPad_length M, shaPad_length_eq_blocks M,
    shaPad_take M, shaPad_marker M, fun y hy => shaPad_zero M hy, fun i hi => ?_⟩
  rw [List.getD_eq_getElem?_getD, shaPad_lengthByte M hi, Option.getD_some, BitVec.toNat_ofNat]

/-- Settles O30: word 16 + m is the word added after m others. -/
theorem scheduleFollowsItsRecurrence : Obligations.ScheduleFollowsItsRecurrence := by
  intro mw hmw
  refine ⟨schedule_length hmw, schedule_take hmw, fun t ht ht' => ?_⟩
  obtain ⟨m, rfl⟩ := Nat.exists_eq_add_of_le ht
  exact schedule_recurrence hmw (by omega)

/-- Settles O31: the sequence is `compressRounds`. -/
theorem compressionIsSixtyFourRounds : Obligations.CompressionIsSixtyFourRounds := by
  intro H W hW
  refine ⟨compressRounds H W, rfl, compress_eq_rounds H hW, fun t ht => ?_⟩
  rw [compressRounds_succ H hW ht]
  exact shaRound_words _ _ _
end

section
/-! PROOFS of the family 42_sha256_checksum.md, 2: the blocks of a message, their chaining and the byte form (R144, R148,
R152). -/

namespace Sys2Proof.Machine

open Sys2Proof

/-! ### The blocks -/

/-- The chaining value after the first b blocks (R148). -/
def chainingValue (M : Bytes) (b : Nat) : Hash8 := ((shaBlocks (shaPad M)).take b).foldl shaBlockStep initialHash

/-- Block b of the padded message (R144). -/
def paddedBlock (M : Bytes) (b : Nat) : Bytes := ((shaPad M).drop (64 * b)).take 64

@[simp] theorem shaBlocks_shaPad_length (M : Bytes) : (shaBlocks (shaPad M)).length = (M.length + 8) / 64 + 1 := by
  rw [shaBlocks, List.length_map, List.length_range, shaPad_length_eq_blocks, Nat.mul_div_cancel_left _ (by decide)]

theorem sha256_eq_chainingValue (M : Bytes) : sha256 M = chainingValue M ((M.length + 8) / 64 + 1) := by
  rw [chainingValue, ← shaBlocks_shaPad_length, List.take_length]
  rfl

theorem shaBlocks_shaPad_getElem (M : Bytes) {b : Nat} (h : b < (shaBlocks (shaPad M)).length) :
    (shaBlocks (shaPad M))[b] = paddedBlock M b := by
  simp [shaBlocks, paddedBlock]

theorem chainingValue_succ (M : Bytes) {b : Nat} (hb : b < (M.length + 8) / 64 + 1) :
    chainingValue M (b + 1) = shaBlockStep (chainingValue M b) (paddedBlock M b) := by
  have hblock : b < (shaBlocks (shaPad M)).length := by simpa using hb
  rw [chainingValue, foldl_take_succ _ _ hblock, shaBlocks_shaPad_getElem, chainingValue]

theorem paddedBlock_getD (M : Bytes) (b : Nat) {i : Nat} (h : i < 64) :
    (paddedBlock M b).getD i 0 = (shaPad M).getD (64 * b + i) 0 := by
  simp [paddedBlock, List.getD_eq_getElem?_getD, List.getElem?_take_of_lt h]

theorem messageWords_getD (block : Bytes) {t : Nat} (h : t < 16) :
    (messageWords block).getD t 0 = messageWord block t := by
  simp [messageWords, List.getD_eq_getElem?_getD, h]

/-- Message word t of block b as the padded message's bytes (R144). -/
theorem messageWords_paddedBlock_toNat (M : Bytes) (b : Nat) {t : Nat} (h : t < 16) :
    ((messageWords (paddedBlock M b)).getD t 0).toNat =
      ((shaPad M).getD (64 * b + 4 * t) 0).toNat * 2 ^ 24 + ((shaPad M).getD (64 * b + 4 * t + 1) 0).toNat * 2 ^ 16 +
        ((shaPad M).getD (64 * b + 4 * t + 2) 0).toNat * 2 ^ 8 + ((shaPad M).getD (64 * b + 4 * t + 3) 0).toNat := by
  rw [messageWords_getD _ h, messageWord_toNat, paddedBlock_getD _ _ (by omega), paddedBlock_getD _ _ (by omega),
    paddedBlock_getD _ _ (by omega), paddedBlock_getD _ _ (by omega)]
  rfl

theorem chain_words_getD (H v : Hash8) {j : Nat} (h : j < 8) :
    (chain H v).words.getD j 0 = H.words.getD j 0 + v.words.getD j 0 := by
  interval_cases j <;> rfl

/-! ### The byte form (R152) -/

/-- Entry n * j + i of the pieces of length n side by side is entry i of piece j. -/
theorem flatMap_getElem? {α β : Type} {n : Nat} {f : α → List β} (hf : ∀ a, (f a).length = n) (l : List α) (j : Nat)
    {i : Nat} (hi : i < n) : (l.flatMap f)[n * j + i]? = (l[j]?).bind fun a => (f a)[i]? := by
  induction l generalizing j with
  | nil => rfl
  | cons a l ih =>
    rw [List.flatMap_cons]
    cases j with
    | zero => rw [List.getElem?_append_left (by simpa [hf] using hi), Nat.mul_zero, Nat.zero_add]; rfl
    | succ j =>
      have hpiece : n * (j + 1) + i = (f a).length + (n * j + i) := by rw [hf, Nat.mul_succ]; omega
      rw [hpiece, List.getElem?_append_right (Nat.le_add_right _ _), Nat.add_sub_cancel_left, ih,
        List.getElem?_cons_succ]

theorem wordBytes_getElem? (w : Word) {i : Nat} (h : i < 4) :
    (wordBytes w)[i]? = some (w.extractLsb' (24 - 8 * i) 8) := by
  simp [wordBytes, h]

theorem Hash8.bytes_getD (H : Hash8) {j i : Nat} (hj : j < 8) (hi : i < 4) :
    H.bytes.getD (4 * j + i) 0 = (H.words.getD j 0).extractLsb' (24 - 8 * i) 8 := by
  rw [Hash8.bytes, List.getD_eq_getElem?_getD, flatMap_getElem? wordBytes_length _ _ hi,
    List.getElem?_eq_getElem (by simpa using hj), Option.bind_some, wordBytes_getElem? _ hi, Option.getD_some,
    List.getD_eq_getElem _ _ (by simpa using hj)]

end Sys2Proof.Machine

open Sys2Proof Sys2Proof.Machine

/-- Settles O50: the sequences are `chainingValue` and the message words of `paddedBlock`. -/
theorem hashChainsOverEveryBlock : Obligations.HashChainsOverEveryBlock := by
  intro M
  refine ⟨chainingValue M, fun b => messageWords (paddedBlock M b), rfl, sha256_eq_chainingValue M,
    fun b hb => ⟨messageWords_length _, fun t ht => messageWords_paddedBlock_toNat M b ht, fun j hj => ?_⟩,
    Hash8.bytes_length _, fun j hj i hi => Hash8.bytes_getD _ hj hi⟩
  rw [chainingValue_succ M hb]
  exact chain_words_getD _ _ hj
end

section
/-! PROOFS of the family 42_sha256_checksum.md, 3: the checksum bits, `CSUM` and the derived indices (R153, R155, R182). -/

namespace Sys2Proof.Machine

open Sys2Proof Sys2Proof.Spec

/-! ### The leading bits of the hash -/

/-- The first n bits of a sequence are the high part of its integer (R102). -/
theorem bitsToInt_take (g : Bits) (n : Nat) : bitsToInt (g.take n) = bitsToInt g / 2 ^ (g.length - n) := by
  have hsplit : bitsToInt g = bitsToInt (g.take n) * 2 ^ (g.drop n).length + bitsToInt (g.drop n) := by
    rw [← bitsToInt_append, List.take_append_drop]
  rw [← List.length_drop, hsplit, Nat.mul_comm, Nat.mul_add_div (by positivity), Nat.div_eq_of_lt (bitsToInt_lt _),
    Nat.add_zero]

/-- The bytes of a word have the word's bits, in their order. -/
theorem bytesToBits_wordBytes (w : Word) : bytesToBits (wordBytes w) = msbFirst w := by
  refine List.ext_getElem? fun k => ?_
  by_cases hk : k < 32
  · have hi : k % 8 < 8 := Nat.mod_lt _ (by decide)
    rw [msbFirst_getElem? w hk, ← Nat.div_add_mod k 8, bytesToBits_getElem? _ _ hi,
      wordBytes_getElem? w (by omega), Option.map_some, BitVec.getLsbD_extractLsb', decide_eq_true (by omega),
      Bool.true_and]
    congr 2
    omega
  · rw [List.getElem?_eq_none (by simp; omega), List.getElem?_eq_none (by simp; omega)]

/-- The bits of a hash begin with those of its first word. -/
theorem bytesToBits_bytes_take (H : Hash8) {n : Nat} (h : n ≤ 32) :
    (bytesToBits H.bytes).take n = (msbFirst H.h0).take n := by
  have hbytes : H.bytes = wordBytes H.h0 ++ H.words.tail.flatMap wordBytes := rfl
  rw [hbytes, bytesToBits_append, bytesToBits_wordBytes, List.take_append_of_le_length (by simpa using h)]

theorem leadingHashBits_eq_checksumBits (s : Bits) : leadingHashBits s = checksumBits s := rfl

/-- Up to 32 checksum bits are the top bits of `DIGEST[0]` (R153). -/
theorem bitsToInt_leadingHashBits {s : Bits} (h : s.length / 32 ≤ 32) :
    bitsToInt (leadingHashBits s) = ((sha256 (bitsToBytes s)).h0 >>> (32 - s.length / 32)).toNat := by
  rw [leadingHashBits, bytesToBits_bytes_take _ h, bitsToInt_take, bitsToInt_msbFirst, msbFirst_length,
    BitVec.toNat_ushiftRight, Nat.shiftRight_eq_div_pow]

/-! ### The checks of `CSUM` and `DERIVE` -/

/-- No refusal: a positive multiple of 32 bits without overflow. -/
theorem hashRefusal_eq_none_iff (s : State) :
    hashRefusal s = none ↔ s.entOvf = false ∧ 0 < s.ent.length ∧ s.ent.length % 32 = 0 := by
  unfold hashRefusal
  split_ifs with ho h0 h32
  · simp [ho]
  · simp [h0]
  · simp [h32]
  · simp [ho]
    omega

theorem State.ifDerivable_of_refusal {s : State} {c : ErrCode} (body : State → State) (h : hashRefusal s = some c) :
    s.ifDerivable body = s.fail c := by
  unfold hashRefusal at h
  unfold State.ifDerivable
  split_ifs at h ⊢ <;> cases h <;> rfl

theorem State.ifDerivable_of_no_refusal {s : State} (body : State → State) (h : hashRefusal s = none) :
    s.ifDerivable body = body s := by
  unfold hashRefusal at h
  unfold State.ifDerivable
  split_ifs at h ⊢
  rfl

/-! ### The derived indices -/

/-- Groups of n bits side by side are the sequence they were cut from. -/
theorem flatMap_take_drop {α : Type} (l : List α) (w n : Nat) :
    ((List.range n).flatMap fun k => (l.drop (w * k)).take w) = l.take (w * n) := by
  induction n with
  | zero => simp
  | succ n ih => rw [List.range_succ, List.flatMap_append, ih, List.flatMap_singleton, Nat.mul_succ, List.take_add]

theorem group11_length {C : Bits} {k : Nat} (h : k < C.length / 11) : (group11 C k).length = 11 := by
  simp [group11, Config.idxW]
  omega

/-- The indices written out are the whole groups of entropy and checksum (R178). -/
theorem deriveIndices_flatMap_intToBits11 (s : Bits) :
    (deriveIndices s).flatMap intToBits11 = (combined s).take (11 * ((combined s).length / 11)) := by
  rw [← flatMap_take_drop, deriveIndices, List.flatMap_map]
  refine List.flatMap_congr fun k hk => ?_
  exact intToBits11_ofNat_bitsToInt (group11_length (List.mem_range.mp hk))

end Sys2Proof.Machine

open Sys2Proof Sys2Proof.Machine Sys2Proof.Spec

/-- Settles O27: a refusal is `State.fail`; otherwise `CS` is the top of `DIGEST[0]` by `bitsToInt_leadingHashBits`. -/
theorem csumComputesTheChecksum : Obligations.CsumComputesTheChecksum := by
  refine ⟨issuedAs_encode .csum, fun s => ⟨fun c hc => ⟨s.errs.set c, ?_, s.errs.get_set c⟩, fun hnone =>
    ⟨bitsToInt (leadingHashBits s.ent), ?_, rfl, bitsToInt_leadingHashBits⟩⟩⟩
  · rw [exec_csum, State.ifDerivable_of_refusal _ hc]
    rfl
  · rw [exec_csum, State.ifDerivable_of_no_refusal _ hnone]
    rfl

/-- Settles O34: an accepted buffer and its checksum are whole groups, 33 bits for every 32. -/
theorem indicesSpellEntropyAndChecksum : Obligations.IndicesSpellEntropyAndChecksum := by
  intro s t hnone hfit he
  obtain ⟨-, -, h32⟩ := (hashRefusal_eq_none_iff s).mp hnone
  rw [exec_derive, State.ifDerivable_of_no_refusal _ hnone] at he
  cases he
  have hlen := combined_length_of_le s.ent h32 hfit
  have hspell : (deriveIndices s.ent).flatMap intToBits11 = s.ent ++ leadingHashBits s.ent := by
    rw [deriveIndices_flatMap_intToBits11, List.take_of_length_le (by omega)]
    rfl
  refine ⟨hspell, ?_, (congrArg (List.take s.ent.length) hspell).trans List.take_left⟩
  rw [leadingHashBits_eq_checksumBits, checksumBits_length]
  omega
end

section
/-! PROOFS of the family 42_sha256_checksum.md, 4: the known values (R152, R156), by rewriting the model on each message's
blocks of sixteen words. The equations of rounds and schedule take hash values and schedules given word by word, so that
each new word is a numeral before the next one uses it. -/

namespace Sys2Proof.Machine

open Sys2Proof

/-! ### A message whose blocks are known -/

theorem shaBlocks_append {block : Bytes} (h : block.length = 64) (P : Bytes) :
    shaBlocks (block ++ P) = block :: shaBlocks P := by
  have hcount : (block ++ P).length / 64 = P.length / 64 + 1 := by rw [List.length_append, h]; omega
  have hnext : ∀ b, (block ++ P).drop (64 * (b + 1)) = P.drop (64 * b) := fun b => by
    rw [Nat.mul_succ, Nat.add_comm, ← h, ← List.drop_drop, List.drop_left]
  rw [shaBlocks, hcount, List.range_succ_eq_map]
  simp [shaBlocks, hnext, List.take_left' h]

theorem shaBlocks_flatten {blocks : List Bytes} (h : ∀ block ∈ blocks, block.length = 64) :
    shaBlocks blocks.flatten = blocks := by
  induction blocks with
  | nil => rfl
  | cons block blocks ih =>
    rw [List.flatten_cons, shaBlocks_append (h block List.mem_cons_self),
      ih fun b hb => h b (List.mem_cons_of_mem _ hb)]

/-- The hash of a message from its blocks and their message words. -/
theorem sha256_words_of_blocks {M : Bytes} (blocks : List Bytes) (mws : List (List Word)) {a b c d e f g h : Word}
    (hpad : shaPad M = blocks.flatten) (hlength : ∀ block ∈ blocks, block.length = 64)
    (hwords : blocks.map messageWords = mws)
    (hfold : mws.foldl (fun H mw => chain H (compress H (schedule mw))) initialHash = ⟨a, b, c, d, e, f, g, h⟩) :
    (sha256 M).words = [a, b, c, d, e, f, g, h] := by
  have hsha : sha256 M = ⟨a, b, c, d, e, f, g, h⟩ := by
    rw [← hfold, ← hwords, List.foldl_map, sha256, hpad, shaBlocks_flatten hlength]
    rfl
  rw [hsha]
  rfl

theorem shaPad_128_zeros :
    shaPad (List.replicate 128 0) =
      [List.replicate 64 0, List.replicate 64 0, 0x80 :: List.replicate 61 0 ++ [0x04, 0x00]].flatten := by
  have htail : [0x80] ++ List.replicate (padZeros 128) 0 ++ bigEndianBytes 8 (8 * 128) =
      0x80 :: List.replicate 61 0 ++ [0x04, 0x00] := rfl
  have hzeros : List.replicate 128 (0 : Byte) = List.replicate 64 0 ++ List.replicate 64 0 := List.replicate_add 64 64 0
  rw [shaPad, List.length_replicate, List.append_assoc, List.append_assoc, ← List.append_assoc [0x80], htail, hzeros,
    List.append_assoc]
  rfl

/-! ### One word at a time -/

theorem nextScheduleWord_cons (w₁ w₂ w₃ w₄ w₅ w₆ w₇ w₈ w₉ w₁₀ w₁₁ w₁₂ w₁₃ w₁₄ w₁₅ w₁₆ : Word) (ws : List Word) :
    nextScheduleWord (w₁ :: w₂ :: w₃ :: w₄ :: w₅ :: w₆ :: w₇ :: w₈ :: w₉ :: w₁₀ :: w₁₁ :: w₁₂ :: w₁₃ :: w₁₄ :: w₁₅ ::
      w₁₆ :: ws) = ssig1 w₂ + w₇ + ssig0 w₁₅ + w₁₆ := rfl

theorem shaRound_mk (a b c d e f g h k w : Word) :
    shaRound ⟨a, b, c, d, e, f, g, h⟩ k w =
      ⟨h + bsig1 e + ch e f g + k + w + (bsig0 a + maj a b c), a, b, c, d + (h + bsig1 e + ch e f g + k + w), e, f, g⟩ :=
  rfl

theorem chain_mk (a b c d e f g h a' b' c' d' e' f' g' h' : Word) :
    chain ⟨a, b, c, d, e, f, g, h⟩ ⟨a', b', c', d', e', f', g', h'⟩ =
      ⟨a + a', b + b', c + c', d + d', e + e', f + f', g + g', h + h'⟩ := rfl

end Sys2Proof.Machine

open Sys2Proof Sys2Proof.Machine

/-- Settles O32: the blocks and message words of each message, then schedule, rounds and chaining on numerals. -/
theorem hashHasItsKnownValues : Obligations.HashHasItsKnownValues := by
  refine ⟨
    sha256_words_of_blocks [0x80 :: List.replicate 63 0] [0x80000000 :: List.replicate 15 0] rfl (by simp) rfl ?_,
    sha256_words_of_blocks [[0x61, 0x62, 0x63, 0x80] ++ List.replicate 59 0 ++ [24]]
      [0x61626380 :: List.replicate 14 0 ++ [24]] rfl (by simp) rfl ?_,
    sha256_words_of_blocks [List.replicate 32 0 ++ [0x80] ++ List.replicate 29 0 ++ [0x01, 0x00]]
      [List.replicate 8 0 ++ [0x80000000] ++ List.replicate 6 0 ++ [256]] rfl (by simp) rfl ?_,
    sha256_words_of_blocks
      [((List.range 14).flatMap fun i => (List.range 4).map fun j => BitVec.ofNat 8 (0x61 + i + j)) ++
        [0x80] ++ List.replicate 7 0, List.replicate 62 0 ++ [0x01, 0xC0]]
      [[0x61626364, 0x62636465, 0x63646566, 0x64656667, 0x65666768, 0x66676869, 0x6768696a, 0x68696a6b,
        0x696a6b6c, 0x6a6b6c6d, 0x6b6c6d6e, 0x6c6d6e6f, 0x6d6e6f70, 0x6e6f7071, 0x80000000, 0],
        List.replicate 15 0 ++ [448]] rfl (by simp) rfl ?_,
    sha256_words_of_blocks [List.replicate 64 0, 0x80 :: List.replicate 61 0 ++ [0x02, 0x00]]
      [List.replicate 16 0, 0x80000000 :: List.replicate 14 0 ++ [512]] rfl (by simp) rfl ?_,
    sha256_words_of_blocks _ [List.replicate 16 0, List.replicate 16 0, 0x80000000 :: List.replicate 14 0 ++ [1024]]
      shaPad_128_zeros (by simp) rfl ?_⟩ <;>
    dsimp [List.replicate, List.reverse, List.reverseAux, schedule, extendSchedule, nextScheduleWord_cons, ssig0, ssig1,
      shr, rotr, xor3, initialHash, compress, roundConstants, fourWords, shaRound_mk, bsig0, bsig1, ch, maj, chain_mk]
end

section
/-! PROOFS of the family 43_wordlist_derive.md, 1: the resource and the mnemonic are pieces joined by one byte, and
`splitAtByte` is the library's `List.splitOn`, which takes such a join apart (R173, R180, R182). -/

namespace Sys2Proof

/-- The word of `LOOKUP` is the opcode above the index (R74). -/
theorem encode_lookup (imm11 : BitVec 11) : encode (.lookup imm11) = 0x40000000 ||| imm11.setWidth 32 :=
  BitVec.append_def _ _

end Sys2Proof

namespace Sys2Proof.Machine

open Sys2Proof Sys2Proof.Spec

/-! ### Splitting and joining -/

theorem splitAtByte_eq_splitOn (sep : Byte) (R : Bytes) : splitAtByte sep R = R.splitOn sep := by
  induction R with
  | nil => rw [splitAtByte, List.splitOn_nil]
  | cons c R ih =>
    rw [splitAtByte, ih, List.splitOn_eq_splitOnP, List.splitOn_eq_splitOnP, List.splitOnP_cons_eq_if_modifyHead]
    cases h : R.splitOnP (· == sep) with
    | nil => exact absurd h (List.splitOnP_ne_nil _ _)
    | cons line lines => by_cases hc : c = sep <;> simp [hc]

/-- Pieces without the separator, joined by it, split back into themselves. -/
theorem splitAtByte_intercalate {sep : Byte} {pieces : List Bytes} (hne : pieces ≠ [])
    (hsep : ∀ piece ∈ pieces, sep ∉ piece) : splitAtByte sep (List.intercalate [sep] pieces) = pieces := by
  rw [splitAtByte_eq_splitOn, List.splitOn_intercalate sep hsep hne]

/-- Between n pieces stand n - 1 separators. -/
theorem intercalate_length (sep : Byte) (pieces : List Bytes) :
    (List.intercalate [sep] pieces).length = (pieces.map List.length).sum + (pieces.length - 1) := by
  induction pieces with
  | nil => rfl
  | cons piece pieces ih =>
    cases pieces with
    | nil => simp
    | cons => rw [List.intercalate_cons_cons]; simp [ih]; omega

/-- The separators are all there is of the separating byte, if the pieces are without it. -/
theorem intercalate_count {sep : Byte} {pieces : List Bytes} (hsep : ∀ piece ∈ pieces, sep ∉ piece) :
    (List.intercalate [sep] pieces).count sep = pieces.length - 1 := by
  induction pieces with
  | nil => rfl
  | cons piece pieces ih =>
    rw [List.forall_mem_cons] at hsep
    obtain ⟨hpiece, hsep⟩ := hsep
    have hcount : piece.count sep = 0 := List.count_eq_zero.mpr hpiece
    cases pieces with
    | nil => simpa using hcount
    | cons =>
      rw [List.intercalate_cons_cons, List.count_append, List.count_append, ih hsep, hcount]
      simp [Nat.add_comm]

theorem joinWords_eq_intercalate (p : Params) (I : List Index) :
    joinWords p I = List.intercalate [chrSP] (I.map (romWord p)) := by
  fun_induction joinWords p I with
  | case1 => rfl
  | case2 i => simp
  | case3 i j rest ih => rw [ih]; simp [List.intercalate_cons_cons]

/-! ### The resource (R173) -/

theorem parseWordList_intercalate {R : Bytes} {lines : List Bytes}
    (hR : stripMark R = List.intercalate [chrLF] lines) (hne : lines ≠ []) (hlines : ∀ l ∈ lines, chrLF ∉ l) :
    parseWordList R = (lines.map stripCR).filter fun l => !l.isEmpty := by
  rw [parseWordList, hR, splitAtByte_intercalate hne hlines]

/-! ### Derivation (R178, R181) -/

/-- An index below 2048 selects a word of the ROM (R51). -/
theorem getElem?_romWord {p : Params} (hrom : p.wordlist.length = 2048) (i : Index) :
    p.wordlist[i.toNat]? = some (romWord p i) := by
  have hi : i.toNat < p.wordlist.length := hrom ▸ i.isLt
  rw [romWord, List.getD_eq_getElem _ _ hi, List.getElem?_eq_getElem hi]

theorem romWord_mem {p : Params} (hrom : p.wordlist.length = 2048) (i : Index) : romWord p i ∈ p.wordlist :=
  List.mem_of_getElem? (getElem?_romWord hrom i)

theorem exec_derive_of_no_refusal {s : State} (h : hashRefusal s = none) :
    exec .derive s = .next s.writeMnemonic.ok := by
  rw [exec_derive, State.ifDerivable_of_no_refusal _ h]

/-- Three indices for every 32 accepted bits (R178). -/
theorem deriveIndices_length_of_no_refusal {s : State} (h : hashRefusal s = none) (hfit : s.ent.length ≤ 1024) :
    (deriveIndices s.ent).length = 3 * (s.ent.length / 32) := by
  obtain ⟨-, -, h32⟩ := (hashRefusal_eq_none_iff s).mp h
  rw [deriveIndices_length, combined_length_of_le _ h32 hfit]
  omega

/-- Bit j of index k, the most significant first, is bit 11k + j of what the indices spell. -/
theorem getD_flatMap_intToBits11 {I : List Index} {k j : Nat} (hk : k < I.length) (hj : j < 11) :
    (I.flatMap intToBits11).getD (11 * k + j) false = (I.getD k 0).getLsbD (10 - j) := by
  rw [List.getD_eq_getElem?_getD, flatMap_getElem? intToBits11_length _ _ hj, List.getElem?_eq_getElem hk,
    Option.bind_some, intToBits11_getElem? _ hj, Option.getD_some, List.getD_eq_getElem _ _ hk]

end Sys2Proof.Machine

open Sys2Proof Sys2Proof.Machine

/-- Settles O36: the ROM has a word at every 11-bit index. -/
theorem lookupReadsTheRomWord : Obligations.LookupReadsTheRomWord := by
  exact fun imm11 => ⟨issuedAs_of_encode_eq (encode_lookup imm11),
    fun s hrom => ⟨_, getElem?_romWord hrom imm11, exec_lookup imm11 s⟩⟩

/-- Settles O45: with or without a mark, what is left to split is the join of the lines. -/
theorem wordListResourceIsParsedLineByLine : Obligations.WordListResourceIsParsedLineByLine := by
  intro lines hne hlines
  have himage : ((lines.map stripCR).filter fun l => !l.isEmpty) = (lines.map stripCR).filter fun l => l ≠ [] :=
    List.filter_congr fun l _ => by cases l <;> rfl
  refine ⟨?_, fun hmark => ?_⟩
  · rw [parseWordList_intercalate rfl hne hlines, himage]
    rfl
  · rw [parseWordList_intercalate (if_neg hmark) hne hlines, himage]
    rfl

/-- Settles O33: a refusal is `State.fail`; otherwise the indices spell entropy and checksum as O34 says. -/
theorem deriveWritesTheMnemonic : Obligations.DeriveWritesTheMnemonic := by
  refine ⟨issuedAs_encode .derive, fun s => ⟨fun c hc => ⟨s.errs.set c, ?_, s.errs.get_set c⟩,
    fun hnone hfit _ => ⟨deriveIndices s.ent, ?_, ?_, fun k hk j hj => ?_⟩⟩⟩
  · rw [exec_derive, State.ifDerivable_of_refusal _ hc]
    rfl
  · rw [exec_derive_of_no_refusal hnone, State.writeMnemonic, joinWords_eq_intercalate]
    rfl
  · obtain ⟨-, -, h32⟩ := (hashRefusal_eq_none_iff s).mp hnone
    rw [deriveIndices_length_of_no_refusal hnone hfit]
    omega
  · obtain ⟨hspell, -, -⟩ := indicesSpellEntropyAndChecksum s _ hnone hfit (exec_derive_of_no_refusal hnone)
    rw [← hspell]
    exact (getD_flatMap_intToBits11 hk hj).symm

/-- Settles O35: the mnemonic is a join of at least three words (`joinWords_eq_intercalate`). -/
theorem mnemonicSplitsBackIntoItsWords : Obligations.MnemonicSplitsBackIntoItsWords := by
  intro s t hnone hfit hrom hsp he
  rw [exec_derive_of_no_refusal hnone] at he
  cases he
  obtain ⟨-, hpos, h32⟩ := (hashRefusal_eq_none_iff s).mp hnone
  have hlen := deriveIndices_length_of_no_refusal hnone hfit
  have hne : (deriveIndices s.ent).map (romWord s.params) ≠ [] := by
    rw [← List.length_pos_iff, List.length_map]
    omega
  have hwords : ∀ w ∈ (deriveIndices s.ent).map (romWord s.params), chrSP ∉ w :=
    List.forall_mem_map.mpr fun i _ => hsp _ (romWord_mem hrom i)
  have hobuf : s.writeMnemonic.ok.obuf = List.intercalate [chrSP] ((deriveIndices s.ent).map (romWord s.params)) :=
    joinWords_eq_intercalate s.params (deriveIndices s.ent)
  rw [hobuf]
  refine ⟨splitAtByte_intercalate hne hwords, ?_, ?_⟩
  · exact (intercalate_count hwords).trans (by rw [List.length_map]; rfl)
  · rw [intercalate_length, List.length_map, List.map_map]
    rfl
end

section
/-! PROOFS of the family 43_wordlist_derive.md, 2: inspecting what was pushed (R196). A pushed token arrives whole; a
ROM word is no literal, is its own normal form and stands at one index; a literal's index is its value. -/

namespace Sys2Proof.Machine

open Sys2Proof Sys2Proof.Spec

/-! ### Pushing a token -/

/-- A token that fits is appended; parameters, `CFGERR`, `TOKOVF` and `ERRS` stay (R190). -/
theorem runCommands_pushToken (t : Bytes) (s : State) (hc : s.cfgErr = false)
    (hfit : s.tok.length + t.length ≤ s.params.tokMax) :
    ∃ u, runCommands (pushToken t) s = .next u ∧ u.tok = s.tok ++ t ∧ u.params = s.params ∧ u.cfgErr = false ∧
      u.tokOvf = s.tokOvf ∧ u.errs = s.errs := by
  induction t generalizing s with
  | nil => exact ⟨_, runCommands_nil s, by simp, rfl, hc, rfl, rfl⟩
  | cons b t ih =>
    rw [List.length_cons] at hfit
    have hpush : exec (.pushk b) s = .next (s.appendTok b).ok := by
      rw [exec_pushk, State.presentTokByte, if_neg (by omega)]
    obtain ⟨u, hrun, htok, hrest⟩ := ih (s.appendTok b).ok hc (by simp; omega)
    refine ⟨u, ?_, by simpa using htok, hrest⟩
    rw [pushToken, List.map_cons, runCommands_cons _ _ _ _ (decode_encode _) hc hpush]
    exact hrun

/-- *Inspect Token* of a token that fits, from an empty token buffer: the verdict on that token. -/
theorem runCommands_inspectToken {t : Bytes} {s : State} (hc : s.cfgErr = false) (htok : s.tok = [])
    (hovf : s.tokOvf = false) (hfit : t.length ≤ s.params.tokMax) :
    ∃ u : State, runCommands (inspectToken t) s = .next (u.inspectToken.withHost []) ∧ u.tok = t ∧ u.params = s.params ∧
      u.tokOvf = false ∧ u.errs = s.errs := by
  obtain ⟨u, hrun, hut, hp, hcu, ho, he⟩ := runCommands_pushToken t s hc (by simpa [htok] using hfit)
  exact ⟨u, runCommands_concat hc hrun hcu (exec_inspect u), by rw [hut, htok, List.nil_append], hp, ho.trans hovf, he⟩

/-! ### The two verdicts that hit (R195) -/

theorem State.inspectToken_of_literal {s : State} (ho : s.tokOvf = false) (hb : isBinaryLiteral s.tok = true)
    (hlen : s.tok.length ≤ 11) : s.inspectToken =
      s.consumeTok.inspectHit .binary (literalIndex s.tok) (romWord s.params (literalIndex s.tok)) := by
  rcases s.inspectToken_cases with ⟨h, -⟩ | ⟨-, -, h, -⟩ | ⟨-, -, -, h⟩ | ⟨-, h, -⟩ | ⟨-, h, -⟩
  · simp [ho] at h
  · omega
  · exact h
  · simp [hb] at h
  · simp [hb] at h

theorem State.inspectToken_of_found {s : State} {i : Nat} (ho : s.tokOvf = false) (hb : isBinaryLiteral s.tok = false)
    (hf : findWord s.params (trimSpace (toLowerAscii s.tok)) = some i) : s.inspectToken =
      s.consumeTok.inspectHit .word (BitVec.ofNat 11 i) (bin11 (BitVec.ofNat 11 i)) := by
  rcases s.inspectToken_cases with ⟨h, -⟩ | ⟨-, h, -⟩ | ⟨-, h, -⟩ | ⟨-, -, h, -⟩ | ⟨-, -, j, h, he⟩
  · simp [ho] at h
  · simp [hb] at h
  · simp [hb] at h
  · simp [hf] at h
  · rwa [← Option.some.inj (hf.symm.trans h)] at he

/-- Among pairwise distinct words the scan finds the index it was given the word of (R172 (e)). -/
theorem findWord_romWord {p : Params} (hrom : p.wordlist.length = 2048) (hd : p.wordlist.Nodup) (i : Index) :
    findWord p (romWord p i) = some i.toNat := by
  have hi := getElem?_romWord hrom i
  refine (findWord_eq_some_iff _ _ _).mpr ⟨i.isLt, hi, fun j hj hji => hj.ne ?_⟩
  exact (List.getElem?_inj (hj.trans (hrom ▸ i.isLt)) hd).mp (hji.trans hi.symm)

/-! ### The value of a literal (R194) -/

theorem digitBits_append (t u : Bytes) : digitBits (t ++ u) = digitBits t ++ digitBits u := List.map_append

theorem literalValue_append_singleton (t : Bytes) (c : Byte) :
    literalValue (t ++ [c]) = 2 * literalValue t + if c = 0x31 then 1 else 0 := by
  rw [literalValue, List.foldl_append]
  rfl

theorem bitsToInt_digitBits (t : Bytes) : bitsToInt (digitBits t) = literalValue t := by
  induction t using List.reverseRecOn with
  | nil => rfl
  | append_singleton t c ih =>
    rw [digitBits_append, bitsToInt_append, ih, literalValue_append_singleton, Nat.mul_comm]
    by_cases hc : c = 0x31#8 <;> simp [digitBits, chr1, bitsToInt_cons, hc]

theorem literalValue_padLeft11 (t : Bytes) : literalValue (padLeft11 t) = literalValue t := by
  rw [padLeft11, literalValue, List.foldl_append]
  induction 11 - t.length with
  | zero => rfl
  | succ n ih => rwa [List.replicate_succ, List.foldl_cons]

/-- A literal of at most 11 digits is the index of its value. -/
theorem literalIndex_toNat {t : Bytes} (h : t.length ≤ 11) : (literalIndex t).toNat = literalValue t := by
  have hlt := bitsToInt_lt (digitBits (padLeft11 t))
  have hlen : (digitBits (padLeft11 t)).length = 11 := by simp [digitBits, padLeft11, h]
  rw [hlen] at hlt
  rw [literalIndex, BitVec.toNat_ofNat, Nat.mod_eq_of_lt hlt, bitsToInt_digitBits, literalValue_padLeft11]

end Sys2Proof.Machine

open Sys2Proof Sys2Proof.Machine

/-- Settles O49: the pushed token is the word or the literal (`runCommands_inspectToken`), and its verdict is a hit. -/
theorem inspectionRoundTrips : Obligations.InspectionRoundTrips := by
  intro s i hvalid hrom hc htok hovf
  obtain ⟨hlen, hwords, hdistinct⟩ := hrom
  obtain ⟨-, -, -, -, htokMax, hwordMax, -⟩ := s.params.valid_iff.mp hvalid
  refine ⟨?_, fun l hpos hle hdigits hvalue => ?_⟩
  · obtain ⟨-, hfit, -, htrim, hlower, hword⟩ := hwords _ (romWord_mem hlen i)
    obtain ⟨u, hrun, hut, hp, ho, he⟩ := runCommands_inspectToken hc htok hovf (hfit.trans hwordMax)
    have hfound : findWord u.params (trimSpace (toLowerAscii u.tok)) = some i.toNat := by
      rw [hut, hp, hlower, htrim, findWord_romWord hlen hdistinct]
    rw [State.inspectToken_of_found ho (by rw [hut, hword]) hfound, BitVec.ofNat_toNat, BitVec.setWidth_eq] at hrun
    exact ⟨_, hrun, rfl, rfl, rfl, he⟩
  · obtain ⟨u, hrun, hut, hp, ho, he⟩ := runCommands_inspectToken hc htok hovf (hle.trans htokMax)
    have hindex : literalIndex u.tok = i := BitVec.eq_of_toNat_eq (by rw [hut, literalIndex_toNat hle, hvalue])
    have hliteral : isBinaryLiteral u.tok = true :=
      (isBinaryLiteral_iff _).mpr (hut ▸ ⟨List.length_pos_iff.mp hpos, hdigits⟩)
    rw [State.inspectToken_of_literal ho hliteral (hut ▸ hle), hindex, hp] at hrun
    exact ⟨_, hrun, rfl, rfl, rfl, he⟩
end

section
/-! PROOFS of the family 44_inspect.md: trimming and lowercasing (R191, R192), the verdicts on a token (R195), and the
commands `PUSHK` and `INSPECT`. `trimSpace` is the library's `List.dropWhile` and `List.rdropWhile` of one test. -/

namespace Sys2Proof.Machine

open Sys2Proof Sys2Proof.Spec

/-! ### Trimming (R191) -/

theorem isTrimByte_iff (b : Byte) :
    isTrimByte b = true ↔ b ∈ [0x09#8, 0x0A#8, 0x0B#8, 0x0C#8, 0x0D#8, 0x20#8] := by
  simp [isTrimByte, or_assoc]

theorem trimSpace_eq_rdropWhile (t : Bytes) :
    trimSpace t = (t.dropWhile isTrimByte).rdropWhile isTrimByte := rfl

/-- Trimming takes the front's run of white space off first, then the back's run of what is left. -/
theorem takeWhile_append_trimSpace_append (t : Bytes) :
    t.takeWhile isTrimByte ++ trimSpace t ++ (t.dropWhile isTrimByte).rtakeWhile isTrimByte = t := by
  rw [trimSpace_eq_rdropWhile, List.append_assoc, List.rdropWhile_append_rtakeWhile, List.takeWhile_append_dropWhile]

/-- Trimming the back leaves the first byte that trimming the front stopped at. -/
theorem isTrimByte_eq_false_of_head?_trimSpace {t : Bytes} {b : Byte} (h : (trimSpace t).head? = some b) :
    isTrimByte b = false := by
  obtain ⟨back, hback⟩ := List.rdropWhile_prefix isTrimByte (t.dropWhile isTrimByte)
  have hhead : (t.dropWhile isTrimByte).head? = some b := by
    rw [← hback, ← trimSpace_eq_rdropWhile, List.head?_append, h, Option.some_or]
  have hnot := List.head?_dropWhile_not isTrimByte t
  rwa [hhead] at hnot

theorem isTrimByte_eq_false_of_getLast?_trimSpace {t : Bytes} {b : Byte} (h : (trimSpace t).getLast? = some b) :
    isTrimByte b = false := by
  obtain ⟨hne, rfl⟩ := List.mem_getLast?_eq_getLast h
  exact Bool.eq_false_of_not_eq_true (List.rdropWhile_last_not isTrimByte _ hne)

/-! ### Lowercasing (R192) -/

/-- White space lies at or below `SP`. -/
theorem isTrimByte_eq_false_of_lt {b : Byte} (h : 0x20 < b.toNat) : isTrimByte b = false := by
  have hle : ∀ c ∈ [0x09#8, 0x0A#8, 0x0B#8, 0x0C#8, 0x0D#8, 0x20#8], c.toNat ≤ 0x20 := by decide
  exact Bool.eq_false_of_not_eq_true fun hb => h.not_ge (hle b ((isTrimByte_iff b).mp hb))

/-- Neither an upper-case letter nor its lower-case form is white space; no other byte changes (R192). -/
theorem isTrimByte_lowerByte (b : Byte) : isTrimByte (lowerByte b) = isTrimByte b := by
  unfold lowerByte
  split
  case isTrue hupper =>
    have hlower : 0x20 < (b + 0x20).toNat := by
      bv_omega
    rw [isTrimByte_eq_false_of_lt hlower, isTrimByte_eq_false_of_lt (by omega)]
  case isFalse => rfl

theorem dropWhile_toLowerAscii (t : Bytes) :
    (toLowerAscii t).dropWhile isTrimByte = toLowerAscii (t.dropWhile isTrimByte) := by
  have hcomp : isTrimByte ∘ lowerByte = isTrimByte := funext isTrimByte_lowerByte
  rw [toLowerAscii, List.dropWhile_map, hcomp, toLowerAscii]

theorem reverse_toLowerAscii (t : Bytes) : (toLowerAscii t).reverse = toLowerAscii t.reverse := List.map_reverse.symm

theorem trimSpace_toLowerAscii (t : Bytes) : trimSpace (toLowerAscii t) = toLowerAscii (trimSpace t) := by
  simp only [trimSpace, dropWhile_toLowerAscii, reverse_toLowerAscii]

/-! ### Presenting a byte (R190) -/

theorem State.presentTokByte_of_full {s : State} (b : Byte) (h : s.tok.length = s.params.tokMax) :
    s.presentTokByte b = s.setTokOvf.fail .ovf := if_pos h

theorem State.presentTokByte_of_not_full {s : State} (b : Byte) (h : s.tok.length ≠ s.params.tokMax) :
    s.presentTokByte b = (s.appendTok b).ok := if_neg h

/-! ### The scan of the ROM and the digits of an index (R195) -/

theorem findWord_eq_none_iff_not_mem {p : Params} (hrom : p.wordlist.length = 2048) (u : Bytes) :
    findWord p u = none ↔ u ∉ p.wordlist := by
  rw [findWord_eq_none_iff, List.take_of_length_le hrom.le]

/-- A word of the ROM is found at an 11-bit index (R51). -/
theorem exists_findWord_eq_some {p : Params} {u : Bytes} (hrom : p.wordlist.length = 2048) (hu : u ∈ p.wordlist) :
    ∃ v : Index, findWord p u = some v.toNat := by
  cases hf : findWord p u with
  | none => exact absurd hu ((findWord_eq_none_iff_not_mem hrom u).mp hf)
  | some i =>
    obtain ⟨hi, -, -⟩ := (findWord_eq_some_iff p u i).mp hf
    exact ⟨BitVec.ofNatLT i hi, rfl⟩

theorem bin11_getElem? (v : Index) {j : Nat} (h : j < 11) :
    (bin11 v)[j]? = some (if v.getLsbD (10 - j) then 0x31 else 0x30) := by
  rw [bin11, List.getElem?_map, intToBits11_getElem? v h]
  rfl

/-! ### The three verdicts that fail (R195) -/

theorem State.inspectToken_of_overflow {s : State} (ho : s.tokOvf = true) :
    s.inspectToken = s.consumeTok.inspectFail .ovf := if_pos ho

theorem State.inspectToken_of_long_literal {s : State} (ho : s.tokOvf = false) (hb : isBinaryLiteral s.tok = true)
    (hlen : 11 < s.tok.length) : s.inspectToken = s.consumeTok.inspectFail .range := by
  rcases s.inspectToken_cases with ⟨h, -⟩ | ⟨-, -, -, h⟩ | ⟨-, -, h, -⟩ | ⟨-, h, -⟩ | ⟨-, h, -⟩
  · simp [ho] at h
  · exact h
  · omega
  · simp [hb] at h
  · simp [hb] at h

theorem State.inspectToken_of_not_found {s : State} (ho : s.tokOvf = false) (hb : isBinaryLiteral s.tok = false)
    (hf : findWord s.params (trimSpace (toLowerAscii s.tok)) = none) :
    s.inspectToken = s.consumeTok.inspectFail .lookup := by
  rcases s.inspectToken_cases with ⟨h, -⟩ | ⟨-, h, -⟩ | ⟨-, h, -⟩ | ⟨-, -, -, h⟩ | ⟨-, -, i, h, -⟩
  · simp [ho] at h
  · simp [hb] at h
  · simp [hb] at h
  · exact h
  · simp [hf] at h

/-- The next state of a failing inspection, all of it. -/
theorem exec_inspect_of_fail {s : State} {c : ErrCode} (h : s.inspectToken = s.consumeTok.inspectFail c) :
    exec .inspect s = .next { s with
      tok := [], tokOvf := false, insr := { kind := .noResult, index := 0 }, obuf := [],
      lastErr := .err c, errs := s.errs.set c } := congrArg Host.Outcome.next h

/-- The next state of an inspection that hits, all of it. -/
theorem exec_inspect_of_hit {s : State} {k : InspectKind} {v : Index} {text : Bytes}
    (h : s.inspectToken = s.consumeTok.inspectHit k v text) :
    exec .inspect s = .next { s with
      tok := [], tokOvf := false, insr := { kind := k, index := v }, obuf := text, lastErr := .ok } :=
  congrArg Host.Outcome.next h

end Sys2Proof.Machine

open Sys2Proof Sys2Proof.Machine

/-- Settles O37: each of the five verdicts of `State.inspectToken`; the scan of the whole ROM finds the least index. -/
theorem inspectGivesTheVerdict : Obligations.InspectGivesTheVerdict := by
  refine ⟨issuedAs_encode .inspect, fun s hrom => ?_⟩
  intro binary u failsWith
  have hliteral (h : binary) : isBinaryLiteral s.tok = true := (isBinaryLiteral_iff _).mpr h
  have hword (h : ¬binary) : isBinaryLiteral s.tok = false :=
    Bool.eq_false_iff.mpr (mt (isBinaryLiteral_iff _).mp h)
  refine ⟨fun ho => ?_, fun ho hb hlen => ?_, fun ho hb hlen => ?_, fun ho hb hu => ?_, fun ho hb hu => ?_⟩
  · exact exec_inspect_of_fail (State.inspectToken_of_overflow ho)
  · exact exec_inspect_of_fail (State.inspectToken_of_long_literal ho (hliteral hb) hlen)
  · exact ⟨_, _, literalIndex_toNat hlen, getElem?_romWord hrom _,
      exec_inspect_of_hit (State.inspectToken_of_literal ho (hliteral hb) hlen)⟩
  · have hnone := (findWord_eq_none_iff_not_mem hrom u).mpr hu
    exact exec_inspect_of_fail (State.inspectToken_of_not_found ho (hword hb) hnone)
  · obtain ⟨v, hv⟩ := exists_findWord_eq_some hrom hu
    obtain ⟨-, hat, hleast⟩ := (findWord_eq_some_iff _ _ _).mp hv
    have hhit := State.inspectToken_of_found ho (hword hb) hv
    rw [BitVec.ofNat_toNat, BitVec.setWidth_eq] at hhit
    exact ⟨v, bin11 v, hat, hleast, bin11_length v, fun j hj => bin11_getElem? v hj, exec_inspect_of_hit hhit⟩

/-- Settles O44: what is trimmed are the longest runs of white space; lowercasing neither makes nor removes white space
(`isTrimByte_lowerByte`). -/
theorem trimAndLowerActAsStated : Obligations.TrimAndLowerActAsStated := by
  refine ⟨fun t => ⟨_, _, (takeWhile_append_trimSpace_append t).symm, fun b hb => ?_, fun b hb hmem => ?_⟩,
    fun t => rfl, trimSpace_toLowerAscii⟩
  · rw [← isTrimByte_iff]
    rcases List.mem_append.mp hb with hfront | hback
    · exact List.mem_takeWhile_imp hfront
    · exact List.mem_rtakeWhile_imp hback
  · have hnot : isTrimByte b = false :=
      hb.elim isTrimByte_eq_false_of_head?_trimSpace isTrimByte_eq_false_of_getLast?_trimSpace
    rw [← isTrimByte_iff, hnot] at hmem
    cases hmem

/-- Settles O24: the byte is presented to `TOK`, full or not. -/
theorem pushkAppendsTheByteOrOverflows : Obligations.PushkAppendsTheByteOrOverflows := by
  intro b
  refine ⟨issuedAs_of_encode_eq (formatB_eq_formatN_or _ _), fun s => ⟨fun hfull => ?_, fun hroom => ?_⟩⟩
  · rw [exec_pushk, State.presentTokByte_of_full b hfull]
    rfl
  · rw [exec_pushk, State.presentTokByte_of_not_full b hroom]
    rfl
end

section
/-! PROOFS of the family 60_exceptions.md: what a failing command changes (R211), the CFGERR state (R213), and that every
access sequence reaches its end (R217, R252). -/

namespace Sys2Proof.Machine

open Sys2Proof Sys2Proof.Spec

/-! ### Runs -/

/-- What every step keeps, every run keeps; and no run stops (R217). -/
theorem run_keeps {I : State → Prop} (hstep : ∀ s t, I s → step s = .next t → I t) (k : Nat) {s : State} (hs : I s) :
    ∃ t, run k s = .next t ∧ I t := by
  induction k generalizing s with
  | zero => exact ⟨s, rfl, hs⟩
  | succ k ih =>
    obtain ⟨u, hu⟩ := step_next s
    obtain ⟨t, ht, hI⟩ := ih (hstep s u hs hu)
    exact ⟨t, (run_succ_of_next k s u hu).trans ht, hI⟩

/-- k steps take the host's next k accesses off its sequence, or all of them if there are fewer. -/
theorem run_host (k : Nat) (s : State) : ∃ t, run k s = .next t ∧ t.host = s.host.drop k := by
  induction k generalizing s with
  | zero => exact ⟨s, rfl, rfl⟩
  | succ k ih =>
    obtain ⟨u, hu⟩ := step_next s
    obtain ⟨t, ht, hhost⟩ := ih u
    refine ⟨t, (run_succ_of_next k s u hu).trans ht, ?_⟩
    rw [hhost, step_host s u hu, List.drop_tail]

/-! ### The CFGERR state (R213) -/

/-- The reset state of a bad ROM already holds what `ERR_CONFIG` writes. -/
theorem fail_config_resetWith {p : Params} (hp : p.wordlist.length ≠ 2048) :
    (State.resetWith p).fail .config = State.resetWith p := by
  have hbad : (p.wordlist.length != Config.wlSize) = true := bne_iff_ne.mpr hp
  exact State.fail_eq_self (by simp [hbad]) hbad

/-- A step of a block in the reset state of a bad ROM leaves the block there: every command is refused. -/
theorem step_keeps_badReset {p : Params} (hp : p.wordlist.length ≠ 2048) (s t : State)
    (hs : blockOf s = State.resetWith p) (h : step s = .next t) : blockOf t = State.resetWith p := by
  have hcfg : s.cfgErr = true := (congrArg State.cfgErr hs).trans (bne_iff_ne.mpr hp)
  rcases step_cases s t h with ⟨-, rfl⟩ | ⟨n, rest, -, rfl⟩ | ⟨n, w, rest, -, -, rfl⟩ | ⟨w, rest, -, -, rfl⟩ |
    ⟨w, rest, -, hgood, -⟩ | ⟨w, rest, i, -, hgood, -⟩
  iterate 3 exact hs
  · calc blockOf ((s.withHost rest).fail .config)
      _ = (blockOf s).fail .config := rfl
      _ = State.resetWith p := by rw [hs, fail_config_resetWith hp]
  all_goals simp [hcfg] at hgood

/-- A read shows the block only, not the host's side. -/
theorem regRead_blockOf (s : State) (n : RegNum) : regRead (blockOf s) n = regRead s n := rfl

/-! ### How a command fails (R211) -/

/-- The writes a command's rule lists next to its `fail` (R211). -/
def State.failWrites (i : Instr) (s : State) : State :=
  match i with
  | .pushb _ | .pusht _ => s.setEntOvf
  | .pushk _ => s.setTokOvf
  | .inspect => { s.consumeTok with insr := Insr.clear, obuf := [] }
  | _ => s

@[simp] theorem State.failWrites_errs (i : Instr) (s : State) : (s.failWrites i).errs = s.errs := by cases i <;> rfl

/-- A command that ends with code c makes the writes its rule lists, and fails with c. (`cases hc` leaves the four ways
of `exec_cases` that end with a code.) -/
theorem exec_eq_fail {i : Instr} {s t : State} {c : ErrCode} (h : exec i s = .next t) (hc : t.lastErr = .err c) :
    t = (s.failWrites i).fail c := by
  rcases exec_cases i s t h with ⟨rfl, rfl⟩ | ⟨d, rfl, hi, -⟩ | ⟨rfl, hi, -⟩ | ⟨b, rfl, rfl, -⟩ |
    ⟨b, x, rfl, -, rfl, -⟩ | ⟨b, rfl, -, rfl⟩ | ⟨b, rfl, rfl, -⟩ | ⟨b, rfl, rfl, -⟩ | ⟨rfl, rfl, -⟩ | ⟨rfl, rfl, -⟩ |
    ⟨rfl, rfl, -⟩ | ⟨rfl, rfl, -⟩ | ⟨k, rfl, rfl⟩ | ⟨d, rfl, rfl, -⟩ | ⟨k, x, rfl, rfl⟩ | ⟨k, x, rfl, rfl⟩ <;> cases hc
  · simp only [List.mem_cons, List.not_mem_nil, or_false] at hi
    rcases hi with rfl | rfl | rfl | rfl <;> rfl
  · rcases hi with ⟨b, rfl⟩ | ⟨b, rfl⟩ <;> rfl
  · rfl
  · rfl

end Sys2Proof.Machine

open Sys2Proof Sys2Proof.Machine

/-- Settles O12: `step_next`, and a run over all accesses drops them all. -/
theorem everySequenceReachesItsEnd : Obligations.EverySequenceReachesItsEnd := by
  refine ⟨step_next, step_of_host_nil, fun s => ?_⟩
  obtain ⟨t, ht, hhost⟩ := run_host s.host.length s
  exact ⟨t, ht, hhost.trans List.drop_length⟩

/-- Settles O13: the block stays in the reset state of its bad ROM, whose registers are those at reset. -/
theorem cfgErrStateNeverChanges : Obligations.CfgErrStateNeverChanges := by
  intro p accesses k hp
  obtain ⟨t, ht, hblock⟩ := run_keeps (step_keeps_badReset hp) k (s := (State.resetWith p).withHost accesses) rfl
  refine ⟨t, ht, hblock, ?_, fun n hn => ?_⟩ <;> rw [← regRead_blockOf, hblock]
  · exact (statusWord_resetWith p).trans (if_pos (bne_iff_ne.mpr hp))
  · exact regRead_resetWith p n hn

/-- Settles O18: a failure is `fail` after the writes the command's rule lists; `exec_ends` for the commands that end
with `ok`. -/
theorem failChangesOnlyWhatItsRuleLists : Obligations.FailChangesOnlyWhatItsRuleLists := by
  refine ⟨fun i s t c h hc => ?_, fun i s t h hok hclr => ?_⟩
  · obtain rfl := exec_eq_fail h hc
    refine ⟨fun d => by simp, ?_⟩
    cases i <;> rfl
  · rcases exec_ends i s t h with ⟨rfl, -⟩ | ⟨-, -, herrs⟩ | ⟨-, c, -, -, hfail, -⟩
    · exact absurd rfl hclr
    · exact herrs
    · simp [hok] at hfail
end
